-- ==== Sys2Proof/Word.lean ====
section
/-! DEFINITION. The word types of the frame parser (spec/00_scope.md R10, R12; spec/20_memory.md R52). -/

namespace Sys2Proof

/-- `u8`: one element of a buffer, `BYTE_W = 8` bits (R7, R12); bit 0 is the least significant (R10). -/
abbrev Byte := BitVec 8

/-- `u16`, the result width of the 16-bit primitives (R12). -/
abbrev Half := BitVec 16

/-- `u32`, the width of a message identifier and of an error code (R7 `ID_W`, R12). -/
abbrev Word := BitVec 32

/-- `Text`: a finite sequence of characters; equal when they are the same sequence (R12).
No encoding, terminator or length bound is assumed (notes/assumptions/11.md). -/
abbrev Text := List Char

/-- The DBC payload as it is presented: exactly 8 bytes, offsets 0 to 7, whatever `dlc` says (R23, R52). -/
structure Pay where
  b0 : Byte
  b1 : Byte
  b2 : Byte
  b3 : Byte
  b4 : Byte
  b5 : Byte
  b6 : Byte
  b7 : Byte
  deriving DecidableEq, Repr, Inhabited

end Sys2Proof
end

