-- ==== Sys2Proof/Config.lean ====
section
/-! DEFINITION. The open parameters of spec/00_scope.md R8. Those that are data form the record `Config`; a
state carries one (Machine/Board.lean adds R8's constraints). Those that are functions are constants with no
body: every statement holds whatever they are. -/

namespace Sys2Proof

/-- `BMS_LAYOUT` (R154): byte offsets of the BMS fields the source does not fix. -/
structure BmsLayout where
  PACK_I_OFF      : Nat
  SOC_OFF         : Nat
  TEMP_MOS_OFF    : Nat
  TEMP_BAL_OFF    : Nat
  TEMP_EXT_OFF    : Nat
  CAP_PHYS_OFF    : Nat
  CAP_REM_OFF     : Nat
  CAP_CYC_OFF     : Nat
  CHG_MOS_OFF     : Nat
  DSG_MOS_OFF     : Nat
  BAL_OFF         : Nat
  CELL_HI_IDX_OFF : Nat
  CELL_HI_V_OFF   : Nat
  CELL_LO_IDX_OFF : Nat
  CELL_LO_V_OFF   : Nat
  deriving DecidableEq, Repr, Inhabited

/-- `DBC_LAYOUT` (R89, R91): byte offsets of the DBC fields other than those of 0x30A. -/
structure DbcLayout where
  M18A_I_OFF   : Nat
  M18A_V_OFF   : Nat
  M28A_T_OFF   : Nat
  M28A_AH_OFF  : Nat
  M28A_WH_OFF  : Nat
  M38A_ERR_OFF : Nat
  M38A_VAC_OFF : Nat
  M20A_V_OFF   : Nat
  M20A_I_OFF   : Nat
  deriving DecidableEq, Repr, Inhabited

/-- The two status bytes of message 0x18A (R92). -/
inductive StByte where
  | A
  | B
  deriving DecidableEq, Repr, Inhabited

/-- Where a 0x18A sub-field stands: its byte and least significant bit (R92; the width is fixed there). -/
structure SubField where
  byte : StByte
  lsb  : Nat
  deriving DecidableEq, Repr, Inhabited

/-- `ST_LAYOUT` (R92): the two status bytes' offsets and the seven sub-fields. -/
structure StLayout where
  ST_A_OFF : Nat
  ST_B_OFF : Nat
  FA : SubField
  FB : SubField
  FC : SubField
  FD : SubField
  OV : SubField
  N1 : SubField
  N2 : SubField
  deriving DecidableEq, Repr, Inhabited

/-- The four identifiers the source does not list (R85). -/
structure Ids where
  ID_NODE_CMD : Word
  ID_HB_A     : Word
  ID_HB_B     : Word
  ID_M9       : Word
  deriving DecidableEq, Repr, Inhabited

/-- The read-only look-up tables (R53, R54, R130, R134, R138), each a finite partial map from codes to text. -/
structure Roms where
  CHG_MOS_ROM : List (Byte × Text)
  DSG_MOS_ROM : List (Byte × Text)
  BAL_ROM     : List (Byte × Text)
  ERR_ROM     : List (Word × Text)
  ENUM1_ROM   : List (Fin 16 × Text)
  CYCLE_ROM   : List (Fin 3 × Text)
  deriving DecidableEq, Repr, Inhabited

/-- The configuration record of R8: every open parameter that is plain data. -/
structure Config where
  bms  : BmsLayout
  dbc  : DbcLayout
  st   : StLayout
  ids  : Ids
  roms : Roms
  deriving DecidableEq, Repr, Inhabited

/-- `M9Record`, the opaque result type of `DEC_M9` (R209): any finite record, written as bytes.
DESIGN CHOICE, safe: notes/assumptions/8.md. -/
structure M9Record where
  bytes : List Byte
  deriving DecidableEq, Repr, Inhabited

/-- `DEC_M9` (R209): a total function of the 8 payload bytes and the constant ROMs, and nothing else is known. -/
opaque Config.decM9 : Roms → Pay → M9Record

/-- The text `ERR_FALLBACK` writes before the numeral (R136); open. -/
opaque Config.errFallbackBefore : Word → Text

/-- The text `ERR_FALLBACK` writes after the numeral (R136); open. -/
opaque Config.errFallbackAfter : Word → Text

/-- Which rationals the float type `F` of `FP_ROUND` represents exactly (R121); open. -/
opaque Config.fpExact : Rat → Bool

/-- What `FP_ROUND` makes of a rational that `F` does not represent exactly (R121); open. -/
opaque Config.fpInexact : Rat → Rat

end Sys2Proof
end

