-- ==== Sys2Proof/Syntax.lean ====
section
/-! DEFINITION. The operations of spec/opcode_table.json, one constructor each, and the two transaction formats
of spec/30_encoding.md R80 to R82. -/

namespace Sys2Proof

/-- The two units (R9, R20), which are the two transaction formats (R80). -/
inductive TxUnit where
  | BMS
  | DBC
  deriving DecidableEq, Repr, Inhabited

/-- What the host presents (R81, R82). `length` and `dlc` are unbounded (R21, R23); the physical size of `buf`
is a quantity of its own, here the length of the list (R21). -/
inductive Transaction where
  /-- Format `BMS` (R81). -/
  | bms (length : Nat) (buf : List Byte)
  /-- Format `DBC` (R82). -/
  | dbc (id : Word) (dlc : Nat) (pay : Pay)
  deriving DecidableEq, Repr

/-- The nine recognised messages (R84). -/
inductive MsgKind where
  | M18A
  | M28A
  | M38A
  | M20A
  | M30A
  | NODE_CMD
  | HB_A
  | HB_B
  | M9
  deriving DecidableEq, Repr, Inhabited

/-- The two address spaces a primitive can read (R50, R110). -/
inductive Space where
  | BUF
  | PAY
  deriving DecidableEq, Repr, Inhabited

/-- The three BMS status ROMs (R130). -/
inductive StatusRom where
  | CHG_MOS_ROM
  | DSG_MOS_ROM
  | BAL_ROM
  deriving DecidableEq, Repr, Inhabited

/-- The operations: the entry operation of each unit, the nine decoders a DBC identifier selects, and the internal
operations, which no transaction selects (R84). -/
inductive Instr where
  /-- `BMS_DECODE` (R150). -/
  | bmsDecode (length : Nat) (buf : List Byte)
  /-- `DBC_DECODE` (R180): the whole DBC entry operation, dispatch included. -/
  | dbcDecode (id : Word) (dlc : Nat) (pay : Pay)
  /-- `DBC_18A` (R201). -/
  | dbc18a (dlc : Nat) (pay : Pay)
  /-- `DBC_28A` (R202). -/
  | dbc28a (dlc : Nat) (pay : Pay)
  /-- `DBC_38A` (R203). -/
  | dbc38a (dlc : Nat) (pay : Pay)
  /-- `DBC_20A` (R204). -/
  | dbc20a (dlc : Nat) (pay : Pay)
  /-- `DBC_30A` (R205). -/
  | dbc30a (dlc : Nat) (pay : Pay)
  /-- `DBC_NODE_CMD` (R206). -/
  | dbcNodeCmd (dlc : Nat) (pay : Pay)
  /-- `DBC_HB_A` (R207). -/
  | dbcHbA (dlc : Nat) (pay : Pay)
  /-- `DBC_HB_B` (R208). -/
  | dbcHbB (dlc : Nat) (pay : Pay)
  /-- `DBC_M9` (R209). -/
  | dbcM9 (dlc : Nat) (pay : Pay)
  /-- `BE16U(S, k)` (R111). -/
  | be16u (S : Space) (k : Nat)
  /-- `BE32U(S, k)` (R112). -/
  | be32u (S : Space) (k : Nat)
  /-- `LE16U(S, k)` (R113). -/
  | le16u (S : Space) (k : Nat)
  /-- `LE16S(S, k)` (R114). -/
  | le16s (S : Space) (k : Nat)
  /-- `LE32U(S, k)` (R115). -/
  | le32u (S : Space) (k : Nat)
  /-- `U8(S, k)` (R116). -/
  | u8 (S : Space) (k : Nat)
  /-- `BITS(b, lsb, w)` (R119). -/
  | bits (b : Byte) (lsb w : Nat)
  /-- `SCALE(raw, scale, bias)` (R120). -/
  | scale (raw : Int) (scale bias : Rat)
  /-- `STATUS_TEXT(rom, code)` (R133). -/
  | statusText (rom : StatusRom) (code : Byte)
  /-- `ERR_TEXT(code)` (R137). -/
  | errText (code : Word)
  /-- `ENUM1_TEXT(code)` (R140). -/
  | enum1Text (code : Fin 16)
  /-- `CYCLE_TEXT(code)` (R140). -/
  | cycleText (code : Fin 3)
  /-- `CYCLE_CLAMP(n)` (R141). -/
  | cycleClamp (n : Fin 16)
  deriving DecidableEq, Repr

end Sys2Proof
end

