-- ==== Sys2Proof/Machine/Board.lean ====
section
/-! DEFINITION. The fixed parameters of spec/00_scope.md R7, the constraints the spec puts on the open ones (R85,
R90, R93, R131, R135, R139, R155), and `Board`: a configuration that meets them. -/

namespace Sys2Proof

/-- `BMS_MIN_LEN` (R7, R152). -/
@[simp] abbrev BMS_MIN_LEN : Nat := 121

/-- `DBC_PAYLOAD_LEN` (R7, R52). -/
@[simp] abbrev DBC_PAYLOAD_LEN : Nat := 8

/-- `PACK_V_OFF`, fixed by the source (R7, R154). -/
@[simp] abbrev PACK_V_OFF : Nat := 4

/-- `CELL0_OFF`, fixed by the source (R7, R154). -/
@[simp] abbrev CELL0_OFF : Nat := 6

/-- `CELL_STRIDE` (R154; the spec's decision D9). -/
@[simp] abbrev CELL_STRIDE : Nat := 2

/-- The spacing of the external temperatures (R161; the spec's decision D10). -/
@[simp] abbrev TEMP_EXT_STRIDE : Nat := 2

/-- The fields of 0x30A, whose offsets the spec infers (R88). -/
@[simp] abbrev M30A_I_OFF : Nat := 2
@[simp] abbrev M30A_V_OFF : Nat := 4
@[simp] abbrev M30A_T_OFF : Nat := 6

/-- The key R135 says `ERR_ROM` has. -/
@[simp] abbrev ERR_KNOWN_KEY : Word := 394301440

/-- The code R135 says `ERR_ROM` lacks. -/
@[simp] abbrev ERR_KNOWN_GAP : Word := 1

/-- The identifier the source itself gives as one of no message (spec/95_test_vectors.md S7). -/
@[simp] abbrev ID_UNKNOWN_EXAMPLE : Word := 0xFFF

/-- The identifier of each message: five from the source, four parameters (R84, R85). -/
def MsgKind.id (ids : Ids) : MsgKind → Word
  | .M18A => 0x18A
  | .M28A => 0x28A
  | .M38A => 0x38A
  | .M20A => 0x20A
  | .M30A => 0x30A
  | .NODE_CMD => ids.ID_NODE_CMD
  | .HB_A => ids.ID_HB_A
  | .HB_B => ids.ID_HB_B
  | .M9 => ids.ID_M9

/-- `MIN_DLC` (R200). -/
def MsgKind.minDlc : MsgKind → Nat
  | .M18A => 8
  | .M28A => 8
  | .M38A => 8
  | .M20A => 8
  | .M30A => 8
  | .NODE_CMD => 2
  | .HB_A => 1
  | .HB_B => 1
  | .M9 => 8

/-- The nine messages in the order of R180's case arms. -/
def MsgKind.all : List MsgKind :=
  [.M18A, .M28A, .M38A, .M20A, .M30A, .NODE_CMD, .HB_A, .HB_B, .M9]

/-- Offset and width of every BMS field whose offset is open (R154); the cells are fixed. -/
def BmsLayout.fields (l : BmsLayout) : List (Nat × Nat) :=
  [(l.PACK_I_OFF, 2), (l.SOC_OFF, 1), (l.TEMP_MOS_OFF, 2), (l.TEMP_BAL_OFF, 2),
   (l.TEMP_EXT_OFF, 4 * TEMP_EXT_STRIDE), (l.CAP_PHYS_OFF, 4), (l.CAP_REM_OFF, 4), (l.CAP_CYC_OFF, 4),
   (l.CHG_MOS_OFF, 1), (l.DSG_MOS_OFF, 1), (l.BAL_OFF, 1), (l.CELL_HI_IDX_OFF, 1), (l.CELL_HI_V_OFF, 2),
   (l.CELL_LO_IDX_OFF, 1), (l.CELL_LO_V_OFF, 2)]

/-- R155: every field ends at or before offset 121. Nothing is asked about order or overlap. -/
def BmsLayout.wf (l : BmsLayout) : Bool :=
  l.fields.all fun f => decide (f.1 + f.2 ≤ BMS_MIN_LEN)

/-- Offset and width of every DBC field whose offset is open (R89, R91). -/
def DbcLayout.fields (l : DbcLayout) : List (Nat × Nat) :=
  [(l.M18A_I_OFF, 2), (l.M18A_V_OFF, 2), (l.M28A_T_OFF, 2), (l.M28A_AH_OFF, 4), (l.M28A_WH_OFF, 2),
   (l.M38A_ERR_OFF, 4), (l.M38A_VAC_OFF, 2), (l.M20A_V_OFF, 2), (l.M20A_I_OFF, 2)]

/-- R90: no field leaves the 8-byte payload. -/
def DbcLayout.wf (l : DbcLayout) : Bool :=
  l.fields.all fun f => decide (f.1 + f.2 ≤ DBC_PAYLOAD_LEN)

/-- The seven 0x18A sub-fields with their widths (R92). -/
def StLayout.fields (l : StLayout) : List (SubField × Nat) :=
  [(l.FA, 1), (l.FB, 1), (l.FC, 1), (l.FD, 1), (l.OV, 2), (l.N1, 4), (l.N2, 4)]

/-- Two sub-fields share no bit. -/
abbrev SubField.Disjoint (f g : SubField × Nat) : Prop :=
  f.1.byte ≠ g.1.byte ∨ f.1.lsb + f.2 ≤ g.1.lsb ∨ g.1.lsb + g.2 ≤ f.1.lsb

/-- R92 and R93: two distinct payload bytes; no sub-field crosses a byte; the seven are pairwise disjoint; the
nibbles are the two halves of one byte. -/
def StLayout.wf (l : StLayout) : Bool :=
  decide (l.ST_A_OFF < DBC_PAYLOAD_LEN) && decide (l.ST_B_OFF < DBC_PAYLOAD_LEN)
    && decide (l.ST_A_OFF ≠ l.ST_B_OFF)
    && (l.fields.all fun f => decide (f.1.lsb + f.2 ≤ 8))
    && decide (l.fields.Pairwise SubField.Disjoint)
    && decide (l.N1.byte = l.N2.byte)
    && decide ((l.N1.lsb = 0 ∧ l.N2.lsb = 4) ∨ (l.N1.lsb = 4 ∧ l.N2.lsb = 0))

/-- R85: the nine identifiers are pairwise distinct. That none is 0xFFF is S7's (notes/assumptions/12.md). -/
def Ids.wf (ids : Ids) : Bool :=
  decide ((MsgKind.all.map (MsgKind.id ids)).Nodup)
    && decide (ID_UNKNOWN_EXAMPLE ∉ MsgKind.all.map (MsgKind.id ids))

/-- Numbers strictly rising: the one canonical form of a ROM's keys (notes/assumptions/20.md). -/
def rising : List Nat → Bool
  | [] => true
  | [_] => true
  | a :: b :: r => decide (a < b) && rising (b :: r)

/-- R131, R135, R139: the key ranges are the key types; the only facts about contents are R135's two. -/
def Roms.wf (r : Roms) : Bool :=
  rising (r.CHG_MOS_ROM.map fun e => e.1.toNat)
    && rising (r.DSG_MOS_ROM.map fun e => e.1.toNat)
    && rising (r.BAL_ROM.map fun e => e.1.toNat)
    && rising (r.ERR_ROM.map fun e => e.1.toNat)
    && rising (r.ENUM1_ROM.map fun e => e.1.val)
    && rising (r.CYCLE_ROM.map fun e => e.1.val)
    && decide (ERR_KNOWN_KEY ∈ r.ERR_ROM.map Prod.fst)
    && decide (ERR_KNOWN_GAP ∉ r.ERR_ROM.map Prod.fst)

/-- Every constraint of R8's table. -/
def Config.wf (c : Config) : Bool :=
  c.bms.wf && c.dbc.wf && c.st.wf && c.ids.wf && c.roms.wf

/-- A configuration with as little in it as the constraints allow; it only shows that one exists. -/
def Config.least : Config where
  bms := ⟨0, 0, 0, 0, 0, 0, 0, 0, 0, 0, 0, 0, 0, 0, 0⟩
  dbc := ⟨0, 0, 0, 0, 0, 0, 0, 0, 0⟩
  st := ⟨0, 1, ⟨.A, 0⟩, ⟨.A, 1⟩, ⟨.A, 2⟩, ⟨.A, 3⟩, ⟨.A, 4⟩, ⟨.B, 0⟩, ⟨.B, 4⟩⟩
  ids := ⟨0, 1, 2, 3⟩
  roms := ⟨[], [], [], [(ERR_KNOWN_KEY, [])], [], []⟩

/-- A configuration that meets the constraints. The model is defined only for these
(spec/93_implementation_defined.md U11), so the proof travels with the data (notes/assumptions/1.md). -/
structure Board where
  data : Config := Config.least
  ok   : data.wf = true := by decide
  deriving DecidableEq, Repr, Inhabited

/-- The configuration a machine comes out of reset with: fixed before any step (R272) and not known
(notes/assumptions/2.md). -/
opaque Board.fitted : Board

end Sys2Proof
end

