-- ==== Sys2Proof/Machine/Memory.lean ====
section
/-! DEFINITION. A byte space as the host presents it: its physical size, and its contents as (offset, byte) pairs in
one canonical form. Both spaces of spec/20_memory.md R50 that hold bytes, `BUF` and `PAY`, are such spaces. The block
reads them and never writes (R57); the only operation that makes one is the host's presenting of bytes. -/

namespace Sys2Proof.Machine

open Sys2Proof

/-- A byte space: `|S|` and its listed bytes. -/
structure Memory where
  size  : Nat
  cells : List Host.Cell
  deriving DecidableEq, Repr

/-- What an offset inside the space with no entry holds. A presentation gives every byte, so this is how a zero byte
is written down and no value of the model's (notes/assumptions/19.md). -/
def fillerByte : Byte := 0

/-- The byte the entries give for an offset. -/
def cellAt : List Host.Cell → Nat → Byte
  | [], _ => fillerByte
  | (a, b) :: r, k => if a = k then b else cellAt r k

/-- The byte at an offset inside the space. It says nothing outside, where `read` and `memRead` have no value. -/
def Memory.byteAt (m : Memory) (k : Nat) : Byte := cellAt m.cells k

/-- One byte of a space; no value outside it (R58). -/
def Memory.read (m : Memory) (k : Nat) : Option Byte :=
  if k < m.size then some (m.byteAt k) else none

/-- `MemRead(S+k, n)` (R11, R58): the `n` bytes from `k`, defined only when all lie inside the space. -/
def Memory.memRead (m : Memory) (k n : Nat) : Option (List Byte) :=
  if k + n ≤ m.size then some ((List.range n).map fun j => m.byteAt (k + j)) else none

/-- The entries of a byte list whose first byte stands at offset `k`. -/
def cellsFrom : Nat → List Byte → List Host.Cell
  | _, [] => []
  | k, b :: r => if b = fillerByte then cellsFrom (k + 1) r else (k, b) :: cellsFrom (k + 1) r

/-- The space that holds exactly these bytes from offset 0. -/
def Memory.ofBytes (l : List Byte) : Memory := ⟨l.length, cellsFrom 0 l⟩

/-- Entries strictly rising from `k`, below `size`, none equal to what an unlisted offset holds. -/
def cellsWf (size : Nat) : Nat → List Host.Cell → Bool
  | _, [] => true
  | k, (a, b) :: r => decide (k ≤ a) && decide (a < size) && decide (b ≠ fillerByte) && cellsWf size (a + 1) r

/-- The canonical form: equal contents are equal data. -/
def Memory.wf (m : Memory) : Bool := cellsWf m.size 0 m.cells

/-- The eight bytes of a payload in offset order (R52). -/
def payBytes (p : Pay) : List Byte := [p.b0, p.b1, p.b2, p.b3, p.b4, p.b5, p.b6, p.b7]

/-- The payload space of a presented payload (R52). -/
def Memory.ofPay (p : Pay) : Memory := Memory.ofBytes (payBytes p)

/-- The first eight bytes of a space, read back as a payload. -/
def Memory.toPay (m : Memory) : Pay :=
  ⟨m.byteAt 0, m.byteAt 1, m.byteAt 2, m.byteAt 3, m.byteAt 4, m.byteAt 5, m.byteAt 6, m.byteAt 7⟩

end Sys2Proof.Machine
end

