-- ==== Sys2Proof/Machine/Lut.lean ====
section
/-! DEFINITION. The look-up tables of spec/41_lut.md as total functions of the ROM contents (R142). -/

namespace Sys2Proof.Machine

open Sys2Proof

/-- The entry of a ROM at a code, if the code is one of its keys. -/
def romGet {κ : Type} [DecidableEq κ] : List (κ × Text) → κ → Option Text
  | [], _ => none
  | (k, t) :: r, c => if k = c then some t else romGet r c

/-- The fixed fallback text of the small enumerations (R132). -/
def unknownText : Text := ['U', 'n', 'k', 'n', 'o', 'w', 'n']

/-- A small enumeration: the ROM's entry, else `Unknown` (R132). -/
def smallText {κ : Type} [DecidableEq κ] (rom : List (κ × Text)) (code : κ) : Text :=
  match romGet rom code with
  | some t => t
  | none => unknownText

/-- The contents of the status ROM a name stands for (R130). -/
def statusRom (r : Roms) : StatusRom → List (Byte × Text)
  | .CHG_MOS_ROM => r.CHG_MOS_ROM
  | .DSG_MOS_ROM => r.DSG_MOS_ROM
  | .BAL_ROM => r.BAL_ROM

/-- `STATUS_TEXT(rom, code)` (R133). -/
def statusText (r : Roms) (rom : StatusRom) (code : Byte) : Text :=
  smallText (statusRom r rom) code

/-- The decimal numeral of a code: no sign, leading zeros or separators (R136). -/
def decimal (code : Word) : Text := Nat.toDigits 10 code.toNat

/-- `ERR_FALLBACK` (R136): any text that holds the code's decimal numeral. What stands before and after it is open,
and may depend on the code (notes/assumptions/9.md). -/
def errFallback (code : Word) : Text :=
  Config.errFallbackBefore code ++ decimal code ++ Config.errFallbackAfter code

/-- `ERR_TEXT(code)` (R137). -/
def errText (r : Roms) (code : Word) : Text :=
  match romGet r.ERR_ROM code with
  | some t => t
  | none => errFallback code

/-- `ENUM1_TEXT(code)` (R140). -/
def enum1Text (r : Roms) (code : Fin 16) : Text := smallText r.ENUM1_ROM code

/-- `CYCLE_TEXT(code)` (R140). -/
def cycleText (r : Roms) (code : Fin 3) : Text := smallText r.CYCLE_ROM code

/-- `CYCLE_CLAMP(n)` (R141): a code above `CYCLE_MAX = 2` collapses to 0; it does not saturate. -/
def cycleClamp (n : Fin 16) : Fin 3 :=
  if h : n.val ≤ 2 then ⟨n.val, by omega⟩ else 0

end Sys2Proof.Machine
end

