-- ==== Sys2Proof/Machine/Record.lean ====
section
/-! DEFINITION. The result records of spec/10_state.md R29 to R31 and their initial values (R34, R151). Scaled
fields are exact rationals (spec/00_scope.md R12). -/

namespace Sys2Proof.Machine

open Sys2Proof

/-- The BMS record: the fields of R29's table, 42 scalar components. R29's text counts 44, in ten summands for the nine
groups it lists; the model follows the table. DEDUCED: notes/assumptions/29.md. -/
structure BmsRecord where
  pack_voltage_V   : Rat
  pack_current     : Rat
  soc              : Byte
  cell_voltages    : Vector Rat 20
  temp_mos_raw     : Half
  temp_balance_raw : Half
  temp_ext_raw     : Vector Half 4
  cap_physical     : Rat
  cap_remaining    : Rat
  cap_cyclic       : Rat
  chg_mos_code     : Byte
  chg_mos_text     : Text
  dsg_mos_code     : Byte
  dsg_mos_text     : Text
  bal_code         : Byte
  bal_text         : Text
  cell_hi_index    : Byte
  cell_hi_V        : Rat
  cell_lo_index    : Byte
  cell_lo_V        : Rat
  deriving DecidableEq, Repr

/-- `DEFAULT_RECORD` (R151): every number zero, every status text what code 0 maps to. -/
def defaultRecord (r : Roms) : BmsRecord where
  pack_voltage_V := 0
  pack_current := 0
  soc := 0
  cell_voltages := Vector.replicate 20 0
  temp_mos_raw := 0
  temp_balance_raw := 0
  temp_ext_raw := Vector.replicate 4 0
  cap_physical := 0
  cap_remaining := 0
  cap_cyclic := 0
  chg_mos_code := 0
  chg_mos_text := statusText r .CHG_MOS_ROM 0
  dsg_mos_code := 0
  dsg_mos_text := statusText r .DSG_MOS_ROM 0
  bal_code := 0
  bal_text := statusText r .BAL_ROM 0
  cell_hi_index := 0
  cell_hi_V := 0
  cell_lo_index := 0
  cell_lo_V := 0

/-- The variant of message 0x18A (R30). -/
structure M18A where
  charging_current_A : Rat
  battery_voltage_V  : Rat
  flag_a             : Bool
  flag_b             : Bool
  flag_c             : Bool
  flag_d             : Bool
  override_enabled   : Bool
  enum1              : Fin 16
  cycle_type         : Fin 3
  deriving DecidableEq, Repr

/-- The variant of message 0x28A (R30). -/
structure M28A where
  elapsed_time : Rat
  ah_returned  : Rat
  wh_returned  : Rat
  deriving DecidableEq, Repr

/-- The variant of message 0x38A (R30). -/
structure M38A where
  current_error      : Word
  current_error_text : Text
  ac_voltage_V       : Rat
  deriving DecidableEq, Repr

/-- The variant of message 0x20A (R30). -/
structure M20A where
  voltage_request_V : Rat
  current_request_A : Rat
  deriving DecidableEq, Repr

/-- The variant of message 0x30A (R30). -/
structure M30A where
  charging_current_A : Rat
  battery_voltage_V  : Rat
  temperature_C      : Rat
  deriving DecidableEq, Repr

/-- The variant of the node-command message (R30). -/
structure NodeCmd where
  byte0 : Byte
  byte1 : Byte
  deriving DecidableEq, Repr

/-- The variant of the first heartbeat message (R30). -/
structure HbA where
  byte0 : Byte
  deriving DecidableEq, Repr

/-- The variant of the second heartbeat message (R30). -/
structure HbB where
  byte0 : Byte
  deriving DecidableEq, Repr

/-- The container (R31): a sum type, so that a field the tag does not name does not exist. -/
inductive Container where
  | NONE
  | M18A (body : M18A)
  | M28A (body : M28A)
  | M38A (body : M38A)
  | M20A (body : M20A)
  | M30A (body : M30A)
  | NODE_CMD (body : NodeCmd)
  | HB_A (body : HbA)
  | HB_B (body : HbB)
  | M9 (body : M9Record)
  deriving DecidableEq, Repr

/-- The container's discriminant (R31). -/
inductive Tag where
  | NONE
  | M18A
  | M28A
  | M38A
  | M20A
  | M30A
  | NODE_CMD
  | HB_A
  | HB_B
  | M9
  deriving DecidableEq, Repr

/-- `out.tag` (R31). -/
def Container.tag : Container → Tag
  | .NONE => .NONE
  | .M18A _ => .M18A
  | .M28A _ => .M28A
  | .M38A _ => .M38A
  | .M20A _ => .M20A
  | .M30A _ => .M30A
  | .NODE_CMD _ => .NODE_CMD
  | .HB_A _ => .HB_A
  | .HB_B _ => .HB_B
  | .M9 _ => .M9

/-- The spec's own numbering of the tags (R31, its decision D22). -/
def Tag.number : Tag → Nat
  | .NONE => 0
  | .M18A => 1
  | .M28A => 2
  | .M38A => 3
  | .M20A => 4
  | .M30A => 5
  | .NODE_CMD => 6
  | .HB_A => 7
  | .HB_B => 8
  | .M9 => 9

/-- The tag a successful decode of a message sets (R84, R180). -/
def tagOf : MsgKind → Tag
  | .M18A => .M18A
  | .M28A => .M28A
  | .M38A => .M38A
  | .M20A => .M20A
  | .M30A => .M30A
  | .NODE_CMD => .NODE_CMD
  | .HB_A => .HB_A
  | .HB_B => .HB_B
  | .M9 => .M9

end Sys2Proof.Machine
end

