-- ==== Sys2Proof/Machine/State.lean ====
section
/-! DEFINITION. The state of the frame parser (spec/10_state.md). The block keeps nothing from one transaction to the
next (R28): what is here is the constant configuration and ROMs, the transactions the host has still to run, each
unit's input ports and result ports, and the model's own bookkeeping (INVENTORY.md lists every field). -/

namespace Sys2Proof.Machine

open Sys2Proof

/-- The three failure outcomes (R240). They are ordinary results and no faults (R258). -/
inductive Failure where
  /-- R243. -/
  | E_BMS_SHORT
  /-- R241. -/
  | E_DBC_UNKNOWN_ID
  /-- R242. -/
  | E_DBC_SHORT
  deriving DecidableEq, Repr

/-- How a unit's latest transaction ended. The model's bookkeeping and no output of the block (R245). Before the first
transaction the unit's outputs may not be read (R34). -/
inductive Ending where
  | notRun
  | completed
  | failed (f : Failure)
  deriving DecidableEq, Repr

/-- The value an internal operation returned: integers by their mathematical value (R11, R12). -/
inductive OpResult where
  | none
  | int (i : Int)
  | rat (q : Rat)
  | text (t : Text)
  deriving DecidableEq, Repr

/-- Everything a step reads or writes. -/
structure State where
  /-- The configuration record of R8 with the ROMs (R33, R53, R54): constant (R143, R271, R272). -/
  board     : Board
  /-- The host's list of transactions still to run, in order (R283). -/
  pending   : List Transaction
  /-- BMS unit, input port `length` (R21). -/
  length    : Nat
  /-- BMS unit, input port `buf`: address space `BUF` (R21, R51); `|buf|` is its size. -/
  buf       : Memory
  /-- BMS unit, output port `rec` (R22, R29). -/
  bmsRec    : BmsRecord
  /-- BMS unit: how its latest transaction ended (bookkeeping). -/
  bmsEnding : Ending
  /-- DBC unit, input port `id` (R23). -/
  id        : Word
  /-- DBC unit, input port `dlc` (R23). -/
  dlc       : Nat
  /-- DBC unit, input port `pay`: address space `PAY` (R23, R52), size 8. -/
  pay       : Memory
  /-- DBC unit, output port `success` (R24, R32). -/
  success   : Bool
  /-- DBC unit, output port `out` (R24, R31). -/
  out       : Container
  /-- DBC unit: how its latest transaction ended (bookkeeping). -/
  dbcEnding : Ending
  /-- What the latest internal operation run by itself returned (bookkeeping; no operation reads it). -/
  opResult  : OpResult
  deriving DecidableEq, Repr

/-- The machine has no fault: "No condition in this core is fatal" (R240), and it has no trap (R246, R258). -/
inductive Fault : Type
  deriving DecidableEq, Repr

/-- Why an operation has no meaning. -/
inductive Refusal where
  /-- Raised by `exec` alone, for an operation with no meaning yet. Safe. -/
  | notModelled (mnemonic : String)
  /-- Raised by `BMS_DECODE` when `length >= 121 > |buf|`, and by a primitive whose bytes are not all inside its space:
  the host broke R276 and the read has no meaning (R58, U1). Safe: no value is given. -/
  | readOutsideSpace
  /-- Raised by `BITS` when `lsb + w > 8`, which its rule leaves out of its domain (R119, R93). Safe: no value is
  given. -/
  | bitsOutsideByte
  deriving DecidableEq, Repr

/-- The outcomes of a step of this machine. -/
abbrev Out := Host.Outcome State Fault Refusal

/-- After reset (R270): nothing to clear. The outputs stand at the values R34 gives for the start of a transaction, and
are not readable before the first one; the input ports hold nothing (notes/assumptions/4.md, 5.md). -/
def State.reset : State where
  board := Board.fitted
  pending := []
  length := 0
  buf := ⟨0, []⟩
  bmsRec := defaultRecord Board.fitted.data.roms
  bmsEnding := .notRun
  id := 0
  dlc := 0
  pay := ⟨DBC_PAYLOAD_LEN, []⟩
  success := false
  out := .NONE
  dbcEnding := .notRun
  opResult := .none

end Sys2Proof.Machine
end

