-- ==== Sys2Proof/Machine/Ops.lean ====
section
/-! DEFINITION. The shared operations: the byte-assembly primitives of spec/40_byte_assembly.md, presenting a
transaction's inputs, ending a transaction, and returning an internal operation's value. -/

namespace Sys2Proof.Machine

open Sys2Proof

/-! ### Byte assembly (R110 to R117). Each takes a space and an offset whose bytes lie inside it. -/

/-- `U8(S, k)` (R116). -/
def u8 (m : Memory) (k : Nat) : Byte := m.byteAt k

/-- `BE16U(S, k)` (R111): `(b0 << 8) | b1`. -/
def be16u (m : Memory) (k : Nat) : Half :=
  ((m.byteAt k).setWidth 16 <<< 8) ||| (m.byteAt (k + 1)).setWidth 16

/-- `BE32U(S, k)` (R112): `(b0 << 24) | (b1 << 16) | (b2 << 8) | b3`. -/
def be32u (m : Memory) (k : Nat) : Word :=
  ((m.byteAt k).setWidth 32 <<< 24) ||| ((m.byteAt (k + 1)).setWidth 32 <<< 16)
    ||| ((m.byteAt (k + 2)).setWidth 32 <<< 8) ||| (m.byteAt (k + 3)).setWidth 32

/-- `LE16U(S, k)` (R113): `(b1 << 8) | b0`. -/
def le16u (m : Memory) (k : Nat) : Half :=
  ((m.byteAt (k + 1)).setWidth 16 <<< 8) ||| (m.byteAt k).setWidth 16

/-- `sext_16` (R11): the two's complement reading of a 16-bit pattern (G5; notes/assumptions/28.md). -/
def sext16 (u : Half) : Int :=
  if u.toNat < 32768 then (u.toNat : Int) else (u.toNat : Int) - 65536

/-- `LE16S(S, k)` (R114). -/
def le16s (m : Memory) (k : Nat) : Int := sext16 (le16u m k)

/-- `LE32U(S, k)` (R115): `(b3 << 24) | (b2 << 16) | (b1 << 8) | b0`. -/
def le32u (m : Memory) (k : Nat) : Word :=
  ((m.byteAt (k + 3)).setWidth 32 <<< 24) ||| ((m.byteAt (k + 2)).setWidth 32 <<< 16)
    ||| ((m.byteAt (k + 1)).setWidth 32 <<< 8) ||| (m.byteAt k).setWidth 32

/-! ### Inputs -/

/-- The address space an operand names (R50). -/
def State.space (s : State) : Space → Memory
  | .BUF => s.buf
  | .PAY => s.pay

/-- The host presents a BMS transaction: its inputs stand at the BMS unit's ports (R20, R21). -/
def presentBms (length : Nat) (buf : List Byte) (s : State) : State :=
  { s with length := length, buf := Memory.ofBytes buf }

/-- The host presents a DBC transaction: its inputs stand at the DBC unit's ports (R20, R23). -/
def presentDbc (id : Word) (dlc : Nat) (pay : Pay) (s : State) : State :=
  { s with id := id, dlc := dlc, pay := Memory.ofPay pay }

/-! ### Returning an internal operation's value -/

/-- An internal operation returns a value and changes nothing else (R110, R142). -/
def returnValue (v : OpResult) (s : State) : State := { s with opResult := v }

/-- A primitive that reads `n` bytes at `k` of a space: it has a value only when all of them lie inside (R58, R110). -/
def readPrimitive (S : Space) (k n : Nat) (value : Memory → OpResult) (s : State) : Out :=
  if k + n ≤ (s.space S).size then .next (returnValue (value (s.space S)) s)
  else .refused .readOutsideSpace

end Sys2Proof.Machine
end

