-- ==== Sys2Proof/Machine/Operands.lean ====
section
/-! DEFINITION. Operand assembly (spec/30_encoding.md R95): bit extraction, scaling with the constants of R96 and of
spec/42_bms_decoder.md, and the rounding of spec/40_byte_assembly.md R121. -/

namespace Sys2Proof.Machine

open Sys2Proof

/-- `BITS(b, lsb, w)` (R119): shift, then mask. -/
def bits (b : Byte) (lsb w : Nat) : Nat := (b.toNat >>> lsb) &&& ((1 <<< w) - 1)

theorem bits_lt (b : Byte) (lsb w : Nat) : bits b lsb w < 2 ^ w := by
  unfold bits
  have h : (1 <<< w) - 1 < 2 ^ w := by
    have : 0 < 2 ^ w := Nat.two_pow_pos w
    rw [Nat.one_shiftLeft]; omega
  exact lt_of_le_of_lt Nat.and_le_right h

/-- `SCALE(raw, scale, bias)` (R120), exact. -/
def scale (raw : Int) (scale bias : Rat) : Rat := (raw : Rat) * scale + bias

/-- A 16-bit unsigned big-endian field, scaled without bias (R156, R157, R159, R164). -/
def scaledBe16 (m : Memory) (k : Nat) (sc : Rat) : Rat := scale ((be16u m k).toNat : Int) sc 0

/-- A 32-bit unsigned big-endian field, scaled without bias (R162). -/
def scaledBe32 (m : Memory) (k : Nat) (sc : Rat) : Rat := scale ((be32u m k).toNat : Int) sc 0

/-- A 16-bit unsigned little-endian field, scaled without bias (R96). -/
def scaledLe16 (m : Memory) (k : Nat) (sc : Rat) : Rat := scale ((le16u m k).toNat : Int) sc 0

/-- A 32-bit unsigned little-endian field, scaled without bias (R96). -/
def scaledLe32 (m : Memory) (k : Nat) (sc : Rat) : Rat := scale ((le32u m k).toNat : Int) sc 0

/-- The block's one signed field: 16 bits little-endian, with a bias (R88, R114). -/
def scaledLe16s (m : Memory) (k : Nat) (sc bias : Rat) : Rat := scale (le16s m k) sc bias

/-! ### Scales (R96; R156 to R164) -/

def SCALE_TENTH : Rat := 1 / 10
def SCALE_MILLI : Rat := 1 / 1000
def SCALE_MICRO : Rat := 1 / 1000000
def SCALE_256TH : Rat := 1 / 256
def SCALE_16TH : Rat := 1 / 16
def SCALE_8TH : Rat := 1 / 8
def SCALE_TEN : Rat := 10
def TEMPERATURE_BIAS : Rat := -40

/-! ### Sub-byte fields of message 0x18A (R92, R201) -/

/-- `src(X)`: the status byte a sub-field is taken from (R201). -/
def statusByte (l : StLayout) (m : Memory) : StByte → Byte
  | .A => u8 m l.ST_A_OFF
  | .B => u8 m l.ST_B_OFF

/-- The raw value of a sub-field. -/
def subField (l : StLayout) (m : Memory) (f : SubField) (w : Nat) : Nat := bits (statusByte l m f.byte) f.lsb w

/-- A flag bit of 1 is true (R201; the spec's decision D18). -/
def flagBit (l : StLayout) (m : Memory) (f : SubField) : Bool := decide (subField l m f 1 = 1)

/-- A nibble, 0 to 15. -/
def nibble (l : StLayout) (m : Memory) (f : SubField) : Fin 16 := ⟨subField l m f 4, bits_lt _ _ 4⟩

/-! ### Rounding -/

/-- `FP_ROUND` (R121): the identity on what the float type represents, else open (notes/assumptions/10.md). -/
def fpRound (q : Rat) : Rat := if Config.fpExact q then q else Config.fpInexact q

end Sys2Proof.Machine
end

