-- ==== Sys2Proof/Machine/Flags.lean ====
section
/-! DEFINITION. The status outputs (spec/10_state.md R24, R32) and how a transaction ends. There is no condition code.
`raise` of the spec's pseudocode ends the transaction with the failure's outcome and nothing more: no state is saved, no
mode changes, no control is transferred (spec/60_exceptions.md R240, R246), so this is also the model's one "taking an
exception", and there is no return from it (R249). -/

namespace Sys2Proof.Machine

open Sys2Proof

/-- A BMS transaction ends: with its record, or with the default record (R150, R243). -/
def endBms (r : Except Failure BmsRecord) (s : State) : State :=
  match r with
  | .ok rec' => { s with bmsRec := rec', bmsEnding := .completed }
  | .error f => { s with bmsRec := defaultRecord s.board.data.roms, bmsEnding := .failed f }

/-- A DBC transaction ends: with `success` and a tagged container, or without either (R183 to R186, R241, R242). -/
def endDbc (r : Except Failure Container) (s : State) : State :=
  match r with
  | .ok c => { s with success := true, out := c, dbcEnding := .completed }
  | .error f => { s with success := false, out := .NONE, dbcEnding := .failed f }

end Sys2Proof.Machine
end

