-- ==== Sys2Proof/Machine/Bms.lean ====
section
/-! DEFINITION. The BMS frame decoder (spec/42_bms_decoder.md). -/

namespace Sys2Proof.Machine

open Sys2Proof

/-- The field extraction of `BMS_DECODE` (R156 to R164), on a buffer of at least 121 bytes. -/
def extractBms (c : Config) (m : Memory) : BmsRecord where
  pack_voltage_V := scaledBe16 m PACK_V_OFF SCALE_TENTH
  pack_current := scaledBe16 m c.bms.PACK_I_OFF SCALE_TENTH
  soc := u8 m c.bms.SOC_OFF
  cell_voltages := Vector.ofFn fun i : Fin 20 => scaledBe16 m (CELL0_OFF + CELL_STRIDE * i.val) SCALE_MILLI
  temp_mos_raw := be16u m c.bms.TEMP_MOS_OFF
  temp_balance_raw := be16u m c.bms.TEMP_BAL_OFF
  temp_ext_raw := Vector.ofFn fun j : Fin 4 => be16u m (c.bms.TEMP_EXT_OFF + TEMP_EXT_STRIDE * j.val)
  cap_physical := scaledBe32 m c.bms.CAP_PHYS_OFF SCALE_MICRO
  cap_remaining := scaledBe32 m c.bms.CAP_REM_OFF SCALE_MICRO
  cap_cyclic := scaledBe32 m c.bms.CAP_CYC_OFF SCALE_MICRO
  chg_mos_code := u8 m c.bms.CHG_MOS_OFF
  chg_mos_text := statusText c.roms .CHG_MOS_ROM (u8 m c.bms.CHG_MOS_OFF)
  dsg_mos_code := u8 m c.bms.DSG_MOS_OFF
  dsg_mos_text := statusText c.roms .DSG_MOS_ROM (u8 m c.bms.DSG_MOS_OFF)
  bal_code := u8 m c.bms.BAL_OFF
  bal_text := statusText c.roms .BAL_ROM (u8 m c.bms.BAL_OFF)
  cell_hi_index := u8 m c.bms.CELL_HI_IDX_OFF
  cell_hi_V := scaledBe16 m c.bms.CELL_HI_V_OFF SCALE_MILLI
  cell_lo_index := u8 m c.bms.CELL_LO_IDX_OFF
  cell_lo_V := scaledBe16 m c.bms.CELL_LO_V_OFF SCALE_MILLI

/-- The length gate and the extraction behind it (R150, R152). -/
def bmsResult (c : Config) (length : Nat) (m : Memory) : Except Failure BmsRecord :=
  if length < BMS_MIN_LEN then .error .E_BMS_SHORT else .ok (extractBms c m)

/-- The host broke R276 in the way that makes the decoder read outside `buf`: `length >= 121 > |buf|`. -/
def bmsReadsOutside (length : Nat) (m : Memory) : Bool :=
  decide (BMS_MIN_LEN ≤ length) && decide (m.size < BMS_MIN_LEN)

/-- `BMS_DECODE(buf, length)` (R150). -/
def execBmsDecode (length : Nat) (buf : List Byte) (s : State) : Out :=
  let p := presentBms length buf s
  if bmsReadsOutside p.length p.buf then .refused .readOutsideSpace
  else .next (endBms (bmsResult p.board.data p.length p.buf) p)

end Sys2Proof.Machine
end

