-- ==== Sys2Proof/WellFormed.lean ====
section
/-! DEFINITION. Checks on an operation's operands: the domains the spec states for them, and the field widths of the
serialised form (spec/30_encoding.md R97). -/

namespace Sys2Proof

/-- A read of `n` bytes at `k` is inside the space as far as the operand alone can say: `PAY` has 8 bytes
(R58, R90); the size of `BUF` is known only when a transaction presents it. -/
def Space.admits (S : Space) (k n : Nat) : Bool :=
  match S with
  | .BUF => true
  | .PAY => decide (k + n ≤ 8)

/-- The operands lie in the domain the operation's rule states (R58 for a `PAY` offset, R119 for `BITS`). -/
def Instr.wellFormed : Instr → Bool
  | .bmsDecode _ _ => true
  | .dbcDecode _ _ _ => true
  | .dbc18a _ _ => true
  | .dbc28a _ _ => true
  | .dbc38a _ _ => true
  | .dbc20a _ _ => true
  | .dbc30a _ _ => true
  | .dbcNodeCmd _ _ => true
  | .dbcHbA _ _ => true
  | .dbcHbB _ _ => true
  | .dbcM9 _ _ => true
  | .be16u S k => S.admits k 2
  | .be32u S k => S.admits k 4
  | .le16u S k => S.admits k 2
  | .le16s S k => S.admits k 2
  | .le32u S k => S.admits k 4
  | .u8 S k => S.admits k 1
  | .bits _ lsb w => decide (lsb + w ≤ 8)
  | .scale _ _ _ => true
  | .statusText _ _ => true
  | .errText _ => true
  | .enum1Text _ => true
  | .cycleText _ => true
  | .cycleClamp _ => true

/-- The operation is one a transaction can select (R84), and its lengths fit the fields of the serialised form: 2
bytes for `length`, 1 byte for `dlc` (R97). The block itself takes any length (R21, R23). -/
def Instr.serialisable : Instr → Bool
  | .bmsDecode length _ => decide (length < 65536)
  | .dbcDecode _ dlc _ => decide (dlc < 256)
  | .dbc18a dlc _ => decide (dlc < 256)
  | .dbc28a dlc _ => decide (dlc < 256)
  | .dbc38a dlc _ => decide (dlc < 256)
  | .dbc20a dlc _ => decide (dlc < 256)
  | .dbc30a dlc _ => decide (dlc < 256)
  | .dbcNodeCmd dlc _ => decide (dlc < 256)
  | .dbcHbA dlc _ => decide (dlc < 256)
  | .dbcHbB dlc _ => decide (dlc < 256)
  | .dbcM9 dlc _ => decide (dlc < 256)
  | .be16u _ _ => false
  | .be32u _ _ => false
  | .le16u _ _ => false
  | .le16s _ _ => false
  | .le32u _ _ => false
  | .u8 _ _ => false
  | .bits _ _ _ => false
  | .scale _ _ _ => false
  | .statusText _ _ => false
  | .errText _ => false
  | .enum1Text _ => false
  | .cycleText _ => false
  | .cycleClamp _ => false

end Sys2Proof
end

