-- ==== Sys2Proof/Decode.lean ====
section
/-! DEFINITION. From bytes to a transaction (the serialised forms of spec/30_encoding.md R97), from a transaction to
the operation it selects (R83, R84), and back. -/

namespace Sys2Proof

open Sys2Proof.Machine (payBytes)

/-- Why a byte string is no serialised transaction. -/
inductive DecodeError where
  /-- A BMS form has at least the 2 bytes of `length`. -/
  | bmsLengthMissing
  /-- A DBC form has exactly 13 bytes: 4 of `id`, 1 of `dlc`, 8 of `pay`. -/
  | dbcNotThirteenBytes
  deriving DecidableEq, Repr

/-- The serialised forms (R97): most significant byte first for `length` and `id`. -/
def parse : TxUnit → List Byte → Except DecodeError Transaction
  | .BMS, l1 :: l0 :: buf => .ok (.bms ((l1 ++ l0 : BitVec 16).toNat) buf)
  | .BMS, _ => .error .bmsLengthMissing
  | .DBC, [i3, i2, i1, i0, d, p0, p1, p2, p3, p4, p5, p6, p7] =>
    .ok (.dbc (i3 ++ i2 ++ i1 ++ i0 : BitVec 32) d.toNat ⟨p0, p1, p2, p3, p4, p5, p6, p7⟩)
  | .DBC, _ => .error .dbcNotThirteenBytes

/-- Identifier decode: all 32 bits compared (R83), the arms of R180 in their order. -/
def recognise (ids : Ids) (id : Word) : Option MsgKind :=
  if id = MsgKind.M18A.id ids then some .M18A
  else if id = MsgKind.M28A.id ids then some .M28A
  else if id = MsgKind.M38A.id ids then some .M38A
  else if id = MsgKind.M20A.id ids then some .M20A
  else if id = MsgKind.M30A.id ids then some .M30A
  else if id = MsgKind.NODE_CMD.id ids then some .NODE_CMD
  else if id = MsgKind.HB_A.id ids then some .HB_A
  else if id = MsgKind.HB_B.id ids then some .HB_B
  else if id = MsgKind.M9.id ids then some .M9
  else none

/-- The row of the operation map a recognised message stands for (R84). -/
def decoderFor (k : MsgKind) (dlc : Nat) (pay : Pay) : Instr :=
  match k with
  | .M18A => .dbc18a dlc pay
  | .M28A => .dbc28a dlc pay
  | .M38A => .dbc38a dlc pay
  | .M20A => .dbc20a dlc pay
  | .M30A => .dbc30a dlc pay
  | .NODE_CMD => .dbcNodeCmd dlc pay
  | .HB_A => .dbcHbA dlc pay
  | .HB_B => .dbcHbB dlc pay
  | .M9 => .dbcM9 dlc pay

/-- The operation a transaction selects (R84). An identifier of no message stays with the entry operation, whose
dispatcher turns it away (R87 (a); notes/assumptions/16.md). -/
def select (ids : Ids) : Transaction → Instr
  | .bms length buf => .bmsDecode length buf
  | .dbc id dlc pay =>
    match recognise ids id with
    | some k => decoderFor k dlc pay
    | none => .dbcDecode id dlc pay

/-- The decoder: total on any bytes. -/
def decode (ids : Ids) (u : TxUnit) (bytes : List Byte) : Except DecodeError Instr :=
  match parse u bytes with
  | .ok t => .ok (select ids t)
  | .error e => .error e

/-- The serialised form of a transaction (R97). A length that does not fit its field loses its upper bits;
`Instr.serialisable` says when it fits. -/
def serialise : Transaction → TxUnit × List Byte
  | .bms length buf =>
    (.BMS, (BitVec.ofNat 16 length).extractLsb' 8 8 :: (BitVec.ofNat 16 length).extractLsb' 0 8 :: buf)
  | .dbc id dlc pay =>
    (.DBC, id.extractLsb' 24 8 :: id.extractLsb' 16 8 :: id.extractLsb' 8 8 :: id.extractLsb' 0 8
      :: BitVec.ofNat 8 dlc :: payBytes pay)

/-- The transaction that selects an operation; the internal operations have none (R84). -/
def transactionOf (ids : Ids) : Instr → Option Transaction
  | .bmsDecode length buf => some (.bms length buf)
  | .dbcDecode id dlc pay => some (.dbc id dlc pay)
  | .dbc18a dlc pay => some (.dbc (MsgKind.M18A.id ids) dlc pay)
  | .dbc28a dlc pay => some (.dbc (MsgKind.M28A.id ids) dlc pay)
  | .dbc38a dlc pay => some (.dbc (MsgKind.M38A.id ids) dlc pay)
  | .dbc20a dlc pay => some (.dbc (MsgKind.M20A.id ids) dlc pay)
  | .dbc30a dlc pay => some (.dbc (MsgKind.M30A.id ids) dlc pay)
  | .dbcNodeCmd dlc pay => some (.dbc (MsgKind.NODE_CMD.id ids) dlc pay)
  | .dbcHbA dlc pay => some (.dbc (MsgKind.HB_A.id ids) dlc pay)
  | .dbcHbB dlc pay => some (.dbc (MsgKind.HB_B.id ids) dlc pay)
  | .dbcM9 dlc pay => some (.dbc (MsgKind.M9.id ids) dlc pay)
  | .be16u _ _ => none
  | .be32u _ _ => none
  | .le16u _ _ => none
  | .le16s _ _ => none
  | .le32u _ _ => none
  | .u8 _ _ => none
  | .bits _ _ _ => none
  | .scale _ _ _ => none
  | .statusText _ _ => none
  | .errText _ => none
  | .enum1Text _ => none
  | .cycleText _ => none
  | .cycleClamp _ => none

/-- The encoder: unit and serialised bytes of an operation a transaction selects. -/
def encode (ids : Ids) (i : Instr) : Option (TxUnit × List Byte) :=
  match transactionOf ids i with
  | some t => some (serialise t)
  | none => none

/-- Whether the decoder can give this very operation: it is serialisable, and the entry operation `DBC_DECODE` stands
for itself only under an identifier of no message. -/
def Instr.selectable (ids : Ids) (i : Instr) : Bool :=
  i.serialisable &&
    match i with
    | .dbcDecode id _ _ => (recognise ids id).isNone
    | _ => true

/-- The 13 serialised bytes of a word whose bits spec/opcode_table.json numbers: bits 31 to 0 are the identifier, which
R97 stores most significant byte first; then `dlc`, then the payload, each byte 8 further bits. -/
def tableWordBytes (nbits w : Nat) : List Byte :=
  [24, 16, 8, 0, 32, 40, 48, 56, 64, 72, 80, 88, 96].map fun at' => BitVec.ofNat 8 ((w % 2 ^ nbits) >>> at')

/-- The instruction the decoder reads from a word of the opcode table. Only DBC rows have bits there (R98). -/
def decodeTableWord (nbits w : Nat) : Option Instr :=
  match decode Board.fitted.data.ids .DBC (tableWordBytes nbits w) with
  | .ok i => some i
  | .error _ => none

end Sys2Proof
end

