-- ==== Sys2Proof/Machine/Dbc.lean ====
section
/-! DEFINITION. The DBC dispatcher (spec/43_dbc_dispatch.md) and the nine decoders it selects
(spec/44_dbc_decoders.md). -/

namespace Sys2Proof.Machine

open Sys2Proof

/-! ### Field extraction `d(pay)`: reads the payload space, cannot fail -/

/-- `DBC_18A` (R201). -/
def extract18A (c : Config) (m : Memory) : M18A where
  charging_current_A := scaledLe16 m c.dbc.M18A_I_OFF SCALE_256TH
  battery_voltage_V := scaledLe16 m c.dbc.M18A_V_OFF SCALE_256TH
  flag_a := flagBit c.st m c.st.FA
  flag_b := flagBit c.st m c.st.FB
  flag_c := flagBit c.st m c.st.FC
  flag_d := flagBit c.st m c.st.FD
  override_enabled := decide (subField c.st m c.st.OV 2 ≠ 0)
  enum1 := nibble c.st m c.st.N1
  cycle_type := cycleClamp (nibble c.st m c.st.N2)

/-- `DBC_28A` (R202). -/
def extract28A (c : Config) (m : Memory) : M28A where
  elapsed_time := scaledLe16 m c.dbc.M28A_T_OFF SCALE_TEN
  ah_returned := scaledLe32 m c.dbc.M28A_AH_OFF SCALE_8TH
  wh_returned := scaledLe16 m c.dbc.M28A_WH_OFF SCALE_16TH

/-- `DBC_38A` (R203). -/
def extract38A (c : Config) (m : Memory) : M38A where
  current_error := le32u m c.dbc.M38A_ERR_OFF
  current_error_text := errText c.roms (le32u m c.dbc.M38A_ERR_OFF)
  ac_voltage_V := scaledLe16 m c.dbc.M38A_VAC_OFF SCALE_16TH

/-- `DBC_20A` (R204). -/
def extract20A (c : Config) (m : Memory) : M20A where
  voltage_request_V := scaledLe16 m c.dbc.M20A_V_OFF SCALE_256TH
  current_request_A := scaledLe16 m c.dbc.M20A_I_OFF SCALE_16TH

/-- `DBC_30A` (R205). -/
def extract30A (m : Memory) : M30A where
  charging_current_A := scaledLe16 m M30A_I_OFF SCALE_256TH
  battery_voltage_V := scaledLe16 m M30A_V_OFF SCALE_256TH
  temperature_C := scaledLe16s m M30A_T_OFF SCALE_8TH TEMPERATURE_BIAS

/-- `DBC_NODE_CMD` (R206). -/
def extractNodeCmd (m : Memory) : NodeCmd := ⟨u8 m 0, u8 m 1⟩

/-- `DBC_HB_A` (R207). -/
def extractHbA (m : Memory) : HbA := ⟨u8 m 0⟩

/-- `DBC_HB_B` (R208). -/
def extractHbB (m : Memory) : HbB := ⟨u8 m 0⟩

/-- `DBC_M9` (R209). -/
def extractM9 (c : Config) (m : Memory) : M9Record := Config.decM9 c.roms m.toPay

/-- The decoder of a message, its body under its tag (R180, R183). -/
def extract (c : Config) (k : MsgKind) (m : Memory) : Container :=
  match k with
  | .M18A => .M18A (extract18A c m)
  | .M28A => .M28A (extract28A c m)
  | .M38A => .M38A (extract38A c m)
  | .M20A => .M20A (extract20A c m)
  | .M30A => .M30A (extract30A m)
  | .NODE_CMD => .NODE_CMD (extractNodeCmd m)
  | .HB_A => .HB_A (extractHbA m)
  | .HB_B => .HB_B (extractHbB m)
  | .M9 => .M9 (extractM9 c m)

/-! ### Gate and dispatch -/

/-- The `dlc` gate of a recognised message, then its decoder (R180, R185, R200). -/
def gated (c : Config) (k : MsgKind) (dlc : Nat) (m : Memory) : Except Failure Container :=
  if dlc < k.minDlc then .error .E_DBC_SHORT else .ok (extract c k m)

/-- `DBC_DECODE` as a function of its inputs and the configuration (R20, R180): the identifier first, then the length
(R248). -/
def dbcResult (c : Config) (id : Word) (dlc : Nat) (m : Memory) : Except Failure Container :=
  match recognise c.ids id with
  | none => .error .E_DBC_UNKNOWN_ID
  | some k => gated c k dlc m

/-- A DBC transaction whose identifier is that of message `k`. -/
def runMessage (k : MsgKind) (dlc : Nat) (pay : Pay) (s : State) : Out :=
  let p := presentDbc (k.id s.board.data.ids) dlc pay s
  .next (endDbc (gated p.board.data k p.dlc p.pay) p)

/-- `DBC_DECODE(id, pay, dlc)` (R180). -/
def execDbcDecode (id : Word) (dlc : Nat) (pay : Pay) (s : State) : Out :=
  let p := presentDbc id dlc pay s
  .next (endDbc (dbcResult p.board.data p.id p.dlc p.pay) p)

/-- `DBC_18A` (R84, R201). -/
def execDbc18a (dlc : Nat) (pay : Pay) (s : State) : Out := runMessage .M18A dlc pay s

/-- `DBC_28A` (R84, R202). -/
def execDbc28a (dlc : Nat) (pay : Pay) (s : State) : Out := runMessage .M28A dlc pay s

/-- `DBC_38A` (R84, R203). -/
def execDbc38a (dlc : Nat) (pay : Pay) (s : State) : Out := runMessage .M38A dlc pay s

/-- `DBC_20A` (R84, R204). -/
def execDbc20a (dlc : Nat) (pay : Pay) (s : State) : Out := runMessage .M20A dlc pay s

/-- `DBC_30A` (R84, R205). -/
def execDbc30a (dlc : Nat) (pay : Pay) (s : State) : Out := runMessage .M30A dlc pay s

/-- `DBC_NODE_CMD` (R84, R206): it performs no command (R253). -/
def execDbcNodeCmd (dlc : Nat) (pay : Pay) (s : State) : Out := runMessage .NODE_CMD dlc pay s

/-- `DBC_HB_A` (R84, R207). -/
def execDbcHbA (dlc : Nat) (pay : Pay) (s : State) : Out := runMessage .HB_A dlc pay s

/-- `DBC_HB_B` (R84, R208). -/
def execDbcHbB (dlc : Nat) (pay : Pay) (s : State) : Out := runMessage .HB_B dlc pay s

/-- `DBC_M9` (R84, R209). -/
def execDbcM9 (dlc : Nat) (pay : Pay) (s : State) : Out := runMessage .M9 dlc pay s

end Sys2Proof.Machine
end

