-- ==== Sys2Proof/Machine/Primitive.lean ====
section
/-! DEFINITION. The internal operations of spec/40_byte_assembly.md run by themselves. The primitives read the unit's
input port the operand names. -/

namespace Sys2Proof.Machine

open Sys2Proof

/-- `BE16U` (R111). -/
def execBe16u (S : Space) (k : Nat) (s : State) : Out :=
  readPrimitive S k 2 (fun m => .int (be16u m k).toNat) s

/-- `BE32U` (R112). -/
def execBe32u (S : Space) (k : Nat) (s : State) : Out :=
  readPrimitive S k 4 (fun m => .int (be32u m k).toNat) s

/-- `LE16U` (R113). -/
def execLe16u (S : Space) (k : Nat) (s : State) : Out :=
  readPrimitive S k 2 (fun m => .int (le16u m k).toNat) s

/-- `LE16S` (R114). -/
def execLe16s (S : Space) (k : Nat) (s : State) : Out :=
  readPrimitive S k 2 (fun m => .int (le16s m k)) s

/-- `LE32U` (R115). -/
def execLe32u (S : Space) (k : Nat) (s : State) : Out :=
  readPrimitive S k 4 (fun m => .int (le32u m k).toNat) s

/-- `U8` (R116). -/
def execU8 (S : Space) (k : Nat) (s : State) : Out :=
  readPrimitive S k 1 (fun m => .int (u8 m k).toNat) s

/-- `BITS` (R119): its domain is `lsb + w <= 8`. -/
def execBits (b : Byte) (lsb w : Nat) (s : State) : Out :=
  if lsb + w ≤ 8 then .next (returnValue (.int (bits b lsb w)) s) else .refused .bitsOutsideByte

/-- `SCALE` (R120). -/
def execScale (raw : Int) (sc bias : Rat) (s : State) : Out :=
  .next (returnValue (.rat (scale raw sc bias)) s)

end Sys2Proof.Machine
end

