-- ==== Sys2Proof/Machine/Table.lean ====
section
/-! DEFINITION. The look-up operations of spec/41_lut.md run by themselves. None can fail (R142). -/

namespace Sys2Proof.Machine

open Sys2Proof

/-- `STATUS_TEXT` (R133). -/
def execStatusText (rom : StatusRom) (code : Byte) (s : State) : Out :=
  .next (returnValue (.text (statusText s.board.data.roms rom code)) s)

/-- `ERR_TEXT` (R137). -/
def execErrText (code : Word) (s : State) : Out :=
  .next (returnValue (.text (errText s.board.data.roms code)) s)

/-- `ENUM1_TEXT` (R140). -/
def execEnum1Text (code : Fin 16) (s : State) : Out :=
  .next (returnValue (.text (enum1Text s.board.data.roms code)) s)

/-- `CYCLE_TEXT` (R140). -/
def execCycleText (code : Fin 3) (s : State) : Out :=
  .next (returnValue (.text (cycleText s.board.data.roms code)) s)

/-- `CYCLE_CLAMP` (R141). -/
def execCycleClamp (n : Fin 16) (s : State) : Out :=
  .next (returnValue (.int ((cycleClamp n).val : Nat)) s)

end Sys2Proof.Machine
end

