-- ==== Sys2Proof/Machine/Dispatch.lean ====
section
/-! DEFINITION. One arm per operation. -/

namespace Sys2Proof.Machine

open Sys2Proof

def exec (i : Instr) (s : State) : Host.Outcome State Fault Refusal :=
  match i with
  -- the entry operation of each unit
  | .bmsDecode length buf => Sys2Proof.Machine.execBmsDecode length buf s
  | .dbcDecode id dlc pay => Sys2Proof.Machine.execDbcDecode id dlc pay s
  -- the nine decoders
  | .dbc18a dlc pay => Sys2Proof.Machine.execDbc18a dlc pay s
  | .dbc28a dlc pay => Sys2Proof.Machine.execDbc28a dlc pay s
  | .dbc38a dlc pay => Sys2Proof.Machine.execDbc38a dlc pay s
  | .dbc20a dlc pay => Sys2Proof.Machine.execDbc20a dlc pay s
  | .dbc30a dlc pay => Sys2Proof.Machine.execDbc30a dlc pay s
  | .dbcNodeCmd dlc pay => Sys2Proof.Machine.execDbcNodeCmd dlc pay s
  | .dbcHbA dlc pay => Sys2Proof.Machine.execDbcHbA dlc pay s
  | .dbcHbB dlc pay => Sys2Proof.Machine.execDbcHbB dlc pay s
  | .dbcM9 dlc pay => Sys2Proof.Machine.execDbcM9 dlc pay s
  -- internal: byte assembly, bit extraction, scaling
  | .be16u S k => Sys2Proof.Machine.execBe16u S k s
  | .be32u S k => Sys2Proof.Machine.execBe32u S k s
  | .le16u S k => Sys2Proof.Machine.execLe16u S k s
  | .le16s S k => Sys2Proof.Machine.execLe16s S k s
  | .le32u S k => Sys2Proof.Machine.execLe32u S k s
  | .u8 S k => Sys2Proof.Machine.execU8 S k s
  | .bits b lsb w => Sys2Proof.Machine.execBits b lsb w s
  | .scale raw sc bias => Sys2Proof.Machine.execScale raw sc bias s
  -- internal: look-up tables
  | .statusText rom code => Sys2Proof.Machine.execStatusText rom code s
  | .errText code => Sys2Proof.Machine.execErrText code s
  | .enum1Text code => Sys2Proof.Machine.execEnum1Text code s
  | .cycleText code => Sys2Proof.Machine.execCycleText code s
  | .cycleClamp n => Sys2Proof.Machine.execCycleClamp n s

end Sys2Proof.Machine
end

