-- ==== Sys2Proof/Machine/Fetch.lean ====
section
/-! DEFINITION. What a step runs, and what the host can read. There is no program counter (spec/10_state.md R26): the
next thing to run is the head of the host's list of transactions (spec/70_reset_and_hazards.md R283). -/

namespace Sys2Proof.Machine

open Sys2Proof

/-- The operation the next step runs, and the state it runs in; nothing when no transaction is presented. -/
def fetch (s : State) : Option (Instr × State) :=
  match s.pending with
  | [] => none
  | t :: rest => some (select s.board.data.ids t, { s with pending := rest })

/-- The host presents the transaction of an opcode-table word ahead of any other. -/
def placeTableWord (s : State) (nbits w : Nat) : State :=
  match parse .DBC (tableWordBytes nbits w) with
  | .ok t => { s with pending := t :: s.pending }
  | .error _ => s

/-! ### The outputs as the host reads them (R34, R121, R280) -/

/-- A BMS record in the implementation's float type. -/
def BmsRecord.fpRounded (r : BmsRecord) : BmsRecord :=
  { r with
    pack_voltage_V := fpRound r.pack_voltage_V
    pack_current := fpRound r.pack_current
    cell_voltages := r.cell_voltages.map fpRound
    cap_physical := fpRound r.cap_physical
    cap_remaining := fpRound r.cap_remaining
    cap_cyclic := fpRound r.cap_cyclic
    cell_hi_V := fpRound r.cell_hi_V
    cell_lo_V := fpRound r.cell_lo_V }

/-- A container in the implementation's float type. -/
def Container.fpRounded : Container → Container
  | .NONE => .NONE
  | .M18A b => .M18A { b with
      charging_current_A := fpRound b.charging_current_A
      battery_voltage_V := fpRound b.battery_voltage_V }
  | .M28A b => .M28A ⟨fpRound b.elapsed_time, fpRound b.ah_returned, fpRound b.wh_returned⟩
  | .M38A b => .M38A { b with ac_voltage_V := fpRound b.ac_voltage_V }
  | .M20A b => .M20A ⟨fpRound b.voltage_request_V, fpRound b.current_request_A⟩
  | .M30A b => .M30A ⟨fpRound b.charging_current_A, fpRound b.battery_voltage_V, fpRound b.temperature_C⟩
  | .NODE_CMD b => .NODE_CMD b
  | .HB_A b => .HB_A b
  | .HB_B b => .HB_B b
  | .M9 b => .M9 b

/-- What the host reads of the BMS unit: nothing before its first transaction (R34), then the record, exact. That a result
stays readable until the unit's next transaction is a DESIGN CHOICE: notes/assumptions/30.md. -/
def State.readBms (s : State) : Option BmsRecord :=
  if s.bmsEnding = .notRun then none else some s.bmsRec

/-- What the host reads of the DBC unit: nothing before its first transaction (R34), then `success` and `out`, exact. R32
says neither survives its transaction and no rule says when the host's read ends: that they stay readable until the unit's
next transaction is a DESIGN CHOICE, notes/assumptions/30.md. -/
def State.readDbc (s : State) : Option (Bool × Container) :=
  if s.dbcEnding = .notRun then none else some (s.success, s.out)

/-- The BMS record as the implementation's floats carry it (R121). -/
def State.readBmsFloat (s : State) : Option BmsRecord := s.readBms.map BmsRecord.fpRounded

/-- The DBC outputs as the implementation's floats carry them (R121). -/
def State.readDbcFloat (s : State) : Option (Bool × Container) :=
  s.readDbc.map fun r => (r.1, r.2.fpRounded)

end Sys2Proof.Machine
end

