-- ==== Sys2Proof/Machine/Step.lean ====
section
/-! DEFINITION. One step: one transaction (spec/00_scope.md R9). -/

namespace Sys2Proof.Machine

open Sys2Proof

/-- Run the next transaction. With none presented the block is not invoked and nothing happens (R247, R257;
notes/assumptions/3.md). -/
def step (s : State) : Host.Outcome State Fault Refusal :=
  match fetch s with
  | none => .next s
  | some (i, s') => exec i s'

/-- `s` with the transaction of an opcode-table word presented first. -/
def State.withFetchWord (s : State) (nbits w : Nat) : State := placeTableWord s nbits w

end Sys2Proof.Machine
end

