-- ==== Sys2Proof/Machine/Entry.lean ====
section
/-! DEFINITION. The two units as the pair of pure functions spec/10_state.md R20 asks for, each with the configuration
as a further argument. -/

namespace Sys2Proof.Machine

open Sys2Proof

/-- The outputs of a transaction (R22, R24). -/
inductive TxResult where
  | bms (record : BmsRecord)
  | dbc (success : Bool) (out : Container)
  deriving DecidableEq, Repr

/-- `BMS_DECODE : (BUF, Nat) -> BmsRecord` (R20, R150), for a host that keeps R276. -/
def bmsDecodePure (c : Config) (buf : List Byte) (length : Nat) : BmsRecord :=
  match bmsResult c length (Memory.ofBytes buf) with
  | .ok r => r
  | .error _ => defaultRecord c.roms

/-- `DBC_DECODE : (u32, PAY, Nat) -> (Bool, Container)` (R20, R180). -/
def dbcDecodePure (c : Config) (id : Word) (pay : Pay) (dlc : Nat) : Bool × Container :=
  match dbcResult c id dlc (Memory.ofPay pay) with
  | .ok out => (true, out)
  | .error _ => (false, .NONE)

/-- The result of a transaction as a function of its inputs and the configuration alone (R28). -/
def pureResult (c : Config) : Transaction → TxResult
  | .bms length buf => .bms (bmsDecodePure c buf length)
  | .dbc id dlc pay => .dbc (dbcDecodePure c id pay dlc).1 (dbcDecodePure c id pay dlc).2

/-- What stands at the outputs of the unit a transaction runs on. -/
def outputsFor (t : Transaction) (s : State) : TxResult :=
  match t with
  | .bms _ _ => .bms s.bmsRec
  | .dbc _ _ _ => .dbc s.success s.out

end Sys2Proof.Machine
end

