-- ==== Sys2Proof/Safety.lean ====
section
/-! DEFINITION. The terms statements are written in: which transactions have a result
(spec/70_reset_and_hazards.md R276), the invariant of a run, groups of operations, and the spec's formulas over
presented bytes, written with numbers and without the model's memory. -/

namespace Sys2Proof.Machine

open Sys2Proof

/-- The transaction has a result (R58, R276): every one but a BMS transaction with `length >= 121 > |buf|`. The duty R276
states, `length <= |buf|`, is more than is asked here: below 121 it is vacuous, and with `length > |buf| >= 121` nothing
outside `buf` is read (R155; notes/assumptions/13.md). -/
def hasResult : Transaction → Bool
  | .bms length buf => decide (length < 121 ∨ 121 ≤ buf.length)
  | .dbc _ _ _ => true

/-- What holds in every state a run reaches. -/
structure State.Inv (s : State) : Prop where
  /-- `BUF` is in canonical form. -/
  buf_wf : s.buf.wf = true
  /-- `PAY` is in canonical form. -/
  pay_wf : s.pay.wf = true
  /-- `PAY` has 8 bytes (R52). -/
  pay_size : s.pay.size = 8
  /-- `success = (out.tag != NONE)` (R24). -/
  success_tag : s.success = true ↔ s.out.tag ≠ .NONE
  /-- After its first transaction the BMS unit's outputs are what its inputs and the ROMs give (R28). -/
  bms_outputs : s.bmsEnding = .notRun ∨
    (bmsReadsOutside s.length s.buf = false ∧ endBms (bmsResult s.board.data s.length s.buf) s = s)
  /-- After its first transaction the DBC unit's outputs are what its inputs and the ROMs give (R28). -/
  dbc_outputs : s.dbcEnding = .notRun ∨ endDbc (dbcResult s.board.data s.id s.dlc s.pay) s = s

/-- The operations of the DBC unit. -/
def dbcUnitOp : Instr → Option Pay
  | .dbcDecode _ _ p => some p
  | .dbc18a _ p => some p
  | .dbc28a _ p => some p
  | .dbc38a _ p => some p
  | .dbc20a _ p => some p
  | .dbc30a _ p => some p
  | .dbcNodeCmd _ p => some p
  | .dbcHbA _ p => some p
  | .dbcHbB _ p => some p
  | .dbcM9 _ p => some p
  | .bmsDecode _ _ => none
  | .be16u _ _ => none
  | .be32u _ _ => none
  | .le16u _ _ => none
  | .le16s _ _ => none
  | .le32u _ _ => none
  | .u8 _ _ => none
  | .bits _ _ _ => none
  | .scale _ _ _ => none
  | .statusText _ _ => none
  | .errText _ => none
  | .enum1Text _ => none
  | .cycleText _ => none
  | .cycleClamp _ => none

/-- The internal operations (R84): neither unit's entry operation nor a decoder. -/
def internalOp : Instr → Bool
  | .bmsDecode _ _ => false
  | .dbcDecode _ _ _ => false
  | .dbc18a _ _ => false
  | .dbc28a _ _ => false
  | .dbc38a _ _ => false
  | .dbc20a _ _ => false
  | .dbc30a _ _ => false
  | .dbcNodeCmd _ _ => false
  | .dbcHbA _ _ => false
  | .dbcHbB _ _ => false
  | .dbcM9 _ _ => false
  | .be16u _ _ => true
  | .be32u _ _ => true
  | .le16u _ _ => true
  | .le16s _ _ => true
  | .le32u _ _ => true
  | .u8 _ _ => true
  | .bits _ _ _ => true
  | .scale _ _ _ => true
  | .statusText _ _ => true
  | .errText _ => true
  | .enum1Text _ => true
  | .cycleText _ => true
  | .cycleClamp _ => true

/-- Run the pending transactions in list order and collect what each left at its unit's outputs (R283). -/
def collect : List Transaction → State → Option (List TxResult)
  | [], _ => some []
  | t :: ts, s =>
    match step s with
    | .next s' => (collect ts s').map (outputsFor t s' :: ·)
    | .fault _ => none
    | .refused _ => none

/-! ### The spec's formulas over presented bytes -/

/-- Byte `k` of a presented list, as a number. -/
def byteNum (l : List Byte) (k : Nat) : Nat := (l.getD k 0).toNat

/-- `256*b0 + b1` (R111). -/
def beNum16 (l : List Byte) (k : Nat) : Nat := 256 * byteNum l k + byteNum l (k + 1)

/-- `BE32U` as a number (R112). -/
def beNum32 (l : List Byte) (k : Nat) : Nat :=
  16777216 * byteNum l k + 65536 * byteNum l (k + 1) + 256 * byteNum l (k + 2) + byteNum l (k + 3)

/-- `b0 + 256*b1` (R113). -/
def leNum16 (l : List Byte) (k : Nat) : Nat := byteNum l k + 256 * byteNum l (k + 1)

/-- `LE32U` as a number (R115). -/
def leNum32 (l : List Byte) (k : Nat) : Nat :=
  byteNum l k + 256 * byteNum l (k + 1) + 65536 * byteNum l (k + 2) + 16777216 * byteNum l (k + 3)

/-- `u if u < 32768, else u - 65536` (R114). -/
def leInt16 (l : List Byte) (k : Nat) : Int :=
  if leNum16 l k < 32768 then (leNum16 l k : Int) else (leNum16 l k : Int) - 65536

/-- `b[lsb+w-1 : lsb]` (R119) of the status byte a 0x18A sub-field stands in (R92). -/
def stNum (st : StLayout) (l : List Byte) (f : SubField) (w : Nat) : Nat :=
  (byteNum l (match f.byte with | .A => st.ST_A_OFF | .B => st.ST_B_OFF)) / 2 ^ f.lsb % 2 ^ w

/-- A value of a range counted in steps from its lower end (R210). -/
def InSteps (lo hi step q : Rat) : Prop := lo ≤ q ∧ q ≤ hi ∧ ∃ n : Nat, q = lo + n * step

end Sys2Proof.Machine
end

