-- ==== Sys2Proof/Certificates/Slice0/Obligations.lean ====
section
/-! DEFINITION. The statements about the model, each from the rule of spec/ its docstring names. They are settled
elsewhere. Two of State's fields the statements name are the model's own and no output of the block: `opResult`, where
an internal operation run by itself leaves its value (notes/assumptions/6.md), and `bmsEnding` and `dbcEnding`, the
failure's name that R245 lets a model keep (notes/assumptions/7.md). -/

open Sys2Proof Sys2Proof.Machine

/-! ### Encoding and selection -/

/-- R84, R97, R98: bytes written out from the serialised forms decode to the operation they stand for, whatever the
four open identifiers are. The serialisation is the spec's own (D20; notes/assumptions/17.md). -/
def Obligations.WrittenBytesDecodeToTheirOperation : Prop :=
  ∀ ids : Ids,
    decode ids .DBC [0x00, 0x00, 0x01, 0x8A, 0x08, 1, 2, 3, 4, 5, 6, 7, 8] = .ok (.dbc18a 8 ⟨1, 2, 3, 4, 5, 6, 7, 8⟩) ∧
    decode ids .DBC [0x00, 0x00, 0x02, 0x8A, 0x07, 0, 0, 0, 0, 0, 0, 0, 9] = .ok (.dbc28a 7 ⟨0, 0, 0, 0, 0, 0, 0, 9⟩) ∧
    decode ids .DBC [0x00, 0x00, 0x03, 0x8A, 0x08, 0, 0, 0, 0, 0, 0, 0, 0] = .ok (.dbc38a 8 ⟨0, 0, 0, 0, 0, 0, 0, 0⟩) ∧
    decode ids .DBC [0x00, 0x00, 0x02, 0x0A, 0xFF, 5, 0, 0, 0, 0, 0, 0, 0] = .ok (.dbc20a 255 ⟨5, 0, 0, 0, 0, 0, 0, 0⟩) ∧
    decode ids .DBC [0x00, 0x00, 0x03, 0x0A, 0x08, 0, 0, 0, 1, 0, 1, 0, 1] = .ok (.dbc30a 8 ⟨0, 0, 0, 1, 0, 1, 0, 1⟩) ∧
    decode ids .BMS [0x00, 0x79, 0xAA, 0x55] = .ok (.bmsDecode 121 [0xAA, 0x55]) ∧
    decode ids .BMS [0x00] = .error .bmsLengthMissing ∧
    decode ids .DBC [0x00, 0x00, 0x03, 0x0A, 0x08] = .error .dbcNotThirteenBytes

/-- R97: decoding the encoded form of an operation gives it back, for every operation a transaction selects and every
operand its fields admit. The serialisation is the spec's own (D20; notes/assumptions/17.md). -/
def Obligations.DecodeOfEncodeIsTheOperation : Prop :=
  ∀ (b : Board) (i : Instr), i.selectable b.data.ids = true →
    ∃ u bytes, encode b.data.ids i = some (u, bytes) ∧ decode b.data.ids u bytes = .ok i

/-- R97: every byte string that decodes is the encoded form of what it decodes to; so it has one meaning, and the
internal operations are never selected (R84). The serialisation is the spec's own (D20; notes/assumptions/17.md). -/
def Obligations.EncodeOfDecodeIsTheBytes : Prop :=
  ∀ (b : Board) (u : TxUnit) (bytes : List Byte) (i : Instr), decode b.data.ids u bytes = .ok i →
    encode b.data.ids i = some (u, bytes) ∧ i.selectable b.data.ids = true

/-- R83, R85: an identifier is that of message `k` exactly when all its 32 bits are. That no bit is masked off is the
spec's own choice (D27; notes/assumptions/21.md). -/
def Obligations.IdentifierNamesMessageOnlyByAllItsBits : Prop :=
  ∀ (b : Board) (id : Word) (k : MsgKind), recognise b.data.ids id = some k ↔ k.id b.data.ids = id

/-- R9, R283: a step runs the operation the next transaction selects, as its bytes decode, and takes the transaction off
the list; with none presented nothing happens (the model's choice, notes/assumptions/3.md). -/
def Obligations.StepRunsTheSelectedOperation : Prop :=
  ∀ s : State,
    (∀ t rest, s.pending = t :: rest → step s = exec (select s.board.data.ids t) { s with pending := rest }) ∧
    (∀ u bytes t i rest, parse u bytes = .ok t → decode s.board.data.ids u bytes = .ok i → s.pending = t :: rest →
      step s = exec i { s with pending := rest }) ∧
    (s.pending = [] → step s = .next s)

/-! ### Byte assembly -/

/-- R111, R110. Where the value goes, `opResult`, is the model's choice (notes/assumptions/6.md). -/
def Obligations.Be16uPutsTheLowerOffsetFirst : Prop :=
  ∀ (s : State) (S : Space) (k : Nat) (b0 b1 : Byte), (s.space S).memRead k 2 = some [b0, b1] →
    exec (.be16u S k) s = .next { s with opResult := .int (256 * b0.toNat + b1.toNat) }

/-- R112, R110. Where the value goes, `opResult`, is the model's choice (notes/assumptions/6.md). -/
def Obligations.Be32uPutsTheLowerOffsetFirst : Prop :=
  ∀ (s : State) (S : Space) (k : Nat) (b0 b1 b2 b3 : Byte), (s.space S).memRead k 4 = some [b0, b1, b2, b3] →
    exec (.be32u S k) s = .next { s with
      opResult := .int (16777216 * b0.toNat + 65536 * b1.toNat + 256 * b2.toNat + b3.toNat) }

/-- R113, R110. Where the value goes, `opResult`, is the model's choice (notes/assumptions/6.md). -/
def Obligations.Le16uPutsTheLowerOffsetLast : Prop :=
  ∀ (s : State) (S : Space) (k : Nat) (b0 b1 : Byte), (s.space S).memRead k 2 = some [b0, b1] →
    exec (.le16u S k) s = .next { s with opResult := .int (b0.toNat + 256 * b1.toNat) }

/-- R114, R110. The two's complement formula is general knowledge, G5 (notes/assumptions/28.md). Where the value goes,
`opResult`, is the model's choice (notes/assumptions/6.md). -/
def Obligations.Le16sReadsTwosComplement : Prop :=
  ∀ (s : State) (S : Space) (k : Nat) (b0 b1 : Byte), (s.space S).memRead k 2 = some [b0, b1] →
    exec (.le16s S k) s = .next { s with
      opResult := .int (if b0.toNat + 256 * b1.toNat < 32768 then (b0.toNat + 256 * b1.toNat : Int)
        else (b0.toNat + 256 * b1.toNat : Int) - 65536) }

/-- R115, R110. Where the value goes, `opResult`, is the model's choice (notes/assumptions/6.md). -/
def Obligations.Le32uPutsTheLowerOffsetLast : Prop :=
  ∀ (s : State) (S : Space) (k : Nat) (b0 b1 b2 b3 : Byte), (s.space S).memRead k 4 = some [b0, b1, b2, b3] →
    exec (.le32u S k) s = .next { s with
      opResult := .int (b0.toNat + 256 * b1.toNat + 65536 * b2.toNat + 16777216 * b3.toNat) }

/-- R116, R110. Where the value goes, `opResult`, is the model's choice (notes/assumptions/6.md). -/
def Obligations.U8ReturnsTheByte : Prop :=
  ∀ (s : State) (S : Space) (k : Nat) (b : Byte), (s.space S).memRead k 1 = some [b] →
    exec (.u8 S k) s = .next { s with opResult := .int b.toNat }

/-- R58, R110: a primitive whose bytes are not all inside its space has no result. That an internal operation run by
itself is refused like a transaction is the model's reading (notes/assumptions/13.md). -/
def Obligations.PrimitiveOutsideItsSpaceIsRefused : Prop :=
  ∀ (s : State) (S : Space) (k : Nat),
    ((s.space S).memRead k 2 = none → exec (.be16u S k) s = .refused .readOutsideSpace ∧
      exec (.le16u S k) s = .refused .readOutsideSpace ∧ exec (.le16s S k) s = .refused .readOutsideSpace) ∧
    ((s.space S).memRead k 4 = none → exec (.be32u S k) s = .refused .readOutsideSpace ∧
      exec (.le32u S k) s = .refused .readOutsideSpace) ∧
    ((s.space S).memRead k 1 = none → exec (.u8 S k) s = .refused .readOutsideSpace)

/-- R118: the two byte orders read each other's bytes reversed. -/
def Obligations.ByteOrdersMirrorEachOther : Prop :=
  ∀ a b c d : Byte,
    le16u (Memory.ofBytes [a, b]) 0 = be16u (Memory.ofBytes [b, a]) 0 ∧
    le32u (Memory.ofBytes [a, b, c, d]) 0 = be32u (Memory.ofBytes [d, c, b, a]) 0

/-! ### Bits and scaling -/

/-- R119: the bits `lsb+w-1` down to `lsb` of the byte. Where the value goes, `opResult`, is the model's choice (notes/assumptions/6.md). -/
def Obligations.BitsExtractsTheField : Prop :=
  ∀ (s : State) (b : Byte) (lsb w : Nat), lsb + w ≤ 8 →
    exec (.bits b lsb w) s = .next { s with opResult := .int ((b.toNat / 2 ^ lsb % 2 ^ w : Nat) : Int) }

/-- R119, R93: `lsb + w > 8` is outside the operation's domain; that the model stops there is its own reading
(notes/assumptions/14.md). -/
def Obligations.BitsOutsideTheByteIsRefused : Prop :=
  ∀ (s : State) (b : Byte) (lsb w : Nat), 8 < lsb + w → exec (.bits b lsb w) s = .refused .bitsOutsideByte

/-- R120, R110. Where the value goes, `opResult`, is the model's choice (notes/assumptions/6.md). -/
def Obligations.ScaleIsExact : Prop :=
  ∀ (s : State) (raw : Int) (sc bias : Rat),
    exec (.scale raw sc bias) s = .next { s with opResult := .rat (raw * sc + bias) }

/-- R121: `FP_ROUND` changes no value the float type represents. The host's rounded view (`readBmsFloat`,
`readDbcFloat`) is there exactly when the exact one is; in it every scaled field is `FP_ROUND` of the exact field, and
`success`, the tag and every field that is not scaled are the exact ones. That `F` lies inside the rationals is the
model's choice (notes/assumptions/10.md), and so is what can be read before a unit has run (notes/assumptions/4.md). -/
def Obligations.RoundingKeepsTagsAndRepresentableValues : Prop :=
  (∀ q : Rat, Config.fpExact q = false ∨ fpRound q = q) ∧
  (∀ s : State, (s.readBms = none ↔ s.readBmsFloat = none) ∧ (s.readDbc = none ↔ s.readDbcFloat = none)) ∧
  (∀ (s : State) (r : BmsRecord), s.readBms = some r → ∃ f : BmsRecord, s.readBmsFloat = some f ∧
    f.pack_voltage_V = fpRound r.pack_voltage_V ∧ f.pack_current = fpRound r.pack_current ∧ f.soc = r.soc ∧
    (∀ i : Fin 20, f.cell_voltages[i] = fpRound r.cell_voltages[i]) ∧
    f.temp_mos_raw = r.temp_mos_raw ∧ f.temp_balance_raw = r.temp_balance_raw ∧ f.temp_ext_raw = r.temp_ext_raw ∧
    f.cap_physical = fpRound r.cap_physical ∧ f.cap_remaining = fpRound r.cap_remaining ∧
    f.cap_cyclic = fpRound r.cap_cyclic ∧
    f.chg_mos_code = r.chg_mos_code ∧ f.chg_mos_text = r.chg_mos_text ∧
    f.dsg_mos_code = r.dsg_mos_code ∧ f.dsg_mos_text = r.dsg_mos_text ∧
    f.bal_code = r.bal_code ∧ f.bal_text = r.bal_text ∧
    f.cell_hi_index = r.cell_hi_index ∧ f.cell_hi_V = fpRound r.cell_hi_V ∧
    f.cell_lo_index = r.cell_lo_index ∧ f.cell_lo_V = fpRound r.cell_lo_V) ∧
  (∀ (s : State) (ok : Bool) (c : Container), s.readDbc = some (ok, c) →
    ∃ f : Container, s.readDbcFloat = some (ok, f) ∧ f.tag = c.tag ∧
    (∀ b, c = .M18A b → ∃ b', f = .M18A b' ∧ b'.charging_current_A = fpRound b.charging_current_A ∧
      b'.battery_voltage_V = fpRound b.battery_voltage_V ∧ b'.flag_a = b.flag_a ∧ b'.flag_b = b.flag_b ∧
      b'.flag_c = b.flag_c ∧ b'.flag_d = b.flag_d ∧ b'.override_enabled = b.override_enabled ∧
      b'.enum1 = b.enum1 ∧ b'.cycle_type = b.cycle_type) ∧
    (∀ b, c = .M28A b → ∃ b', f = .M28A b' ∧ b'.elapsed_time = fpRound b.elapsed_time ∧
      b'.ah_returned = fpRound b.ah_returned ∧ b'.wh_returned = fpRound b.wh_returned) ∧
    (∀ b, c = .M38A b → ∃ b', f = .M38A b' ∧ b'.current_error = b.current_error ∧
      b'.current_error_text = b.current_error_text ∧ b'.ac_voltage_V = fpRound b.ac_voltage_V) ∧
    (∀ b, c = .M20A b → ∃ b', f = .M20A b' ∧ b'.voltage_request_V = fpRound b.voltage_request_V ∧
      b'.current_request_A = fpRound b.current_request_A) ∧
    (∀ b, c = .M30A b → ∃ b', f = .M30A b' ∧ b'.charging_current_A = fpRound b.charging_current_A ∧
      b'.battery_voltage_V = fpRound b.battery_voltage_V ∧ b'.temperature_C = fpRound b.temperature_C) ∧
    (∀ b, c = .NODE_CMD b → f = .NODE_CMD b) ∧ (∀ b, c = .HB_A b → f = .HB_A b) ∧
    (∀ b, c = .HB_B b → f = .HB_B b) ∧ (∀ b, c = .M9 b → f = .M9 b) ∧ (c = .NONE → f = .NONE))

/-! ### Look-up tables -/

/-- R133: the ROM's entry for a key, `Unknown` for any other code (R132). Where the text goes,
`opResult`, is the model's choice (notes/assumptions/6.md). -/
def Obligations.StatusTextIsEntryOrUnknown : Prop :=
  ∀ (s : State) (rom : StatusRom) (code : Byte),
    (∀ t, (code, t) ∈ statusRom s.board.data.roms rom →
      exec (.statusText rom code) s = .next { s with opResult := .text t }) ∧
    (code ∉ (statusRom s.board.data.roms rom).map Prod.fst →
      exec (.statusText rom code) s = .next { s with opResult := .text ['U', 'n', 'k', 'n', 'o', 'w', 'n'] })

/-- R137: the ROM's entry for a key, the generated fallback for any other code. Where the text goes,
`opResult`, is the model's choice (notes/assumptions/6.md). -/
def Obligations.ErrTextIsEntryOrFallback : Prop :=
  ∀ (s : State) (code : Word),
    (∀ t, (code, t) ∈ s.board.data.roms.ERR_ROM →
      exec (.errText code) s = .next { s with opResult := .text t }) ∧
    (code ∉ s.board.data.roms.ERR_ROM.map Prod.fst →
      exec (.errText code) s = .next { s with opResult := .text (errFallback code) })

/-- R135 to R137: 394301440 is a key of ERR_ROM and its text the entry; 1 is no key, and its text the fallback, which holds
the numeral 1. That the numeral is decimal is the spec's own choice (D14; notes/assumptions/9.md); where the text goes,
`opResult`, is the model's (notes/assumptions/6.md). -/
def Obligations.ErrTextOfTheTwoKnownCodes : Prop :=
  ∀ s : State,
    (∃ t, (394301440, t) ∈ s.board.data.roms.ERR_ROM ∧
      exec (.errText 394301440) s = .next { s with opResult := .text t }) ∧
    (1 : Word) ∉ s.board.data.roms.ERR_ROM.map Prod.fst ∧
    exec (.errText 1) s = .next { s with opResult := .text (errFallback 1) } ∧
    (∃ before after, errFallback 1 = before ++ ['1'] ++ after)

/-- R136: the fallback text holds the code's decimal numeral as a contiguous part. That it is decimal is the spec's own
choice (D14; notes/assumptions/9.md). -/
def Obligations.ErrFallbackHoldsTheDecimalNumeral : Prop :=
  ∀ code : Word, Nat.toDigits 10 code.toNat <:+: errFallback code

/-- R140. Where the text goes, `opResult`, is the model's choice (notes/assumptions/6.md). -/
def Obligations.EnumerationTextsAreEntryOrUnknown : Prop :=
  ∀ s : State,
    (∀ (code : Fin 16) (t : Text), (code, t) ∈ s.board.data.roms.ENUM1_ROM →
      exec (.enum1Text code) s = .next { s with opResult := .text t }) ∧
    (∀ code : Fin 16, code ∉ s.board.data.roms.ENUM1_ROM.map Prod.fst →
      exec (.enum1Text code) s = .next { s with opResult := .text ['U', 'n', 'k', 'n', 'o', 'w', 'n'] }) ∧
    (∀ (code : Fin 3) (t : Text), (code, t) ∈ s.board.data.roms.CYCLE_ROM →
      exec (.cycleText code) s = .next { s with opResult := .text t }) ∧
    (∀ code : Fin 3, code ∉ s.board.data.roms.CYCLE_ROM.map Prod.fst →
      exec (.cycleText code) s = .next { s with opResult := .text ['U', 'n', 'k', 'n', 'o', 'w', 'n'] })

/-- R141: it collapses to 0 and does not saturate. Where the value goes, `opResult`, is the
model's choice (notes/assumptions/6.md). -/
def Obligations.CycleClampCollapsesToZero : Prop :=
  ∀ (s : State) (n : Fin 16),
    exec (.cycleClamp n) s = .next { s with opResult := .int (if n.val ≤ 2 then (n.val : Int) else 0) }

/-! ### The BMS unit -/

/-- R152, R243: below 121 nothing of the buffer is read and the record is the default one. -/
def Obligations.ShortBmsLengthGivesTheDefaultRecord : Prop :=
  ∀ (s : State) (length : Nat) (buf : List Byte), length < 121 →
    exec (.bmsDecode length buf) s = .next { s with
      length := length, buf := Memory.ofBytes buf, bmsEnding := .failed .E_BMS_SHORT,
      bmsRec := defaultRecord s.board.data.roms }

/-- R151: the default record field by field. -/
def Obligations.DefaultRecordIsZeroWithCodeZeroTexts : Prop :=
  ∀ r : Roms,
    (defaultRecord r).pack_voltage_V = 0 ∧ (defaultRecord r).pack_current = 0 ∧ (defaultRecord r).soc = 0 ∧
    (∀ i : Fin 20, (defaultRecord r).cell_voltages[i] = 0) ∧
    (defaultRecord r).temp_mos_raw = 0 ∧ (defaultRecord r).temp_balance_raw = 0 ∧
    (∀ j : Fin 4, (defaultRecord r).temp_ext_raw[j] = 0) ∧
    (defaultRecord r).cap_physical = 0 ∧ (defaultRecord r).cap_remaining = 0 ∧ (defaultRecord r).cap_cyclic = 0 ∧
    (defaultRecord r).chg_mos_code = 0 ∧ (defaultRecord r).chg_mos_text = statusText r .CHG_MOS_ROM 0 ∧
    (defaultRecord r).dsg_mos_code = 0 ∧ (defaultRecord r).dsg_mos_text = statusText r .DSG_MOS_ROM 0 ∧
    (defaultRecord r).bal_code = 0 ∧ (defaultRecord r).bal_text = statusText r .BAL_ROM 0 ∧
    (defaultRecord r).cell_hi_index = 0 ∧ (defaultRecord r).cell_hi_V = 0 ∧
    (defaultRecord r).cell_lo_index = 0 ∧ (defaultRecord r).cell_lo_V = 0

/-- R156 to R164: with 121 bytes or more every field is extracted, and nothing outside the BMS unit's ports and the
record changes. The spacing of the cells (D9), width and spacing of the external temperatures (D10) and the one-byte cell
indices (D11) are the spec's own choices (notes/assumptions/21.md). -/
def Obligations.BmsDecodeExtractsEveryField : Prop :=
  ∀ (s : State) (length : Nat) (buf : List Byte), 121 ≤ length → 121 ≤ buf.length →
    ∃ r : BmsRecord,
      exec (.bmsDecode length buf) s = .next { s with
        length := length, buf := Memory.ofBytes buf, bmsEnding := .completed, bmsRec := r } ∧
      r.pack_voltage_V = (beNum16 buf 4 : Rat) / 10 ∧
      r.pack_current = (beNum16 buf s.board.data.bms.PACK_I_OFF : Rat) / 10 ∧
      r.soc.toNat = byteNum buf s.board.data.bms.SOC_OFF ∧
      (∀ i : Fin 20, r.cell_voltages[i] = (beNum16 buf (6 + 2 * i.val) : Rat) / 1000) ∧
      r.temp_mos_raw.toNat = beNum16 buf s.board.data.bms.TEMP_MOS_OFF ∧
      r.temp_balance_raw.toNat = beNum16 buf s.board.data.bms.TEMP_BAL_OFF ∧
      (∀ j : Fin 4, r.temp_ext_raw[j].toNat = beNum16 buf (s.board.data.bms.TEMP_EXT_OFF + 2 * j.val)) ∧
      r.cap_physical = (beNum32 buf s.board.data.bms.CAP_PHYS_OFF : Rat) / 1000000 ∧
      r.cap_remaining = (beNum32 buf s.board.data.bms.CAP_REM_OFF : Rat) / 1000000 ∧
      r.cap_cyclic = (beNum32 buf s.board.data.bms.CAP_CYC_OFF : Rat) / 1000000 ∧
      r.chg_mos_code.toNat = byteNum buf s.board.data.bms.CHG_MOS_OFF ∧
      r.chg_mos_text = statusText s.board.data.roms .CHG_MOS_ROM r.chg_mos_code ∧
      r.dsg_mos_code.toNat = byteNum buf s.board.data.bms.DSG_MOS_OFF ∧
      r.dsg_mos_text = statusText s.board.data.roms .DSG_MOS_ROM r.dsg_mos_code ∧
      r.bal_code.toNat = byteNum buf s.board.data.bms.BAL_OFF ∧
      r.bal_text = statusText s.board.data.roms .BAL_ROM r.bal_code ∧
      r.cell_hi_index.toNat = byteNum buf s.board.data.bms.CELL_HI_IDX_OFF ∧
      r.cell_hi_V = (beNum16 buf s.board.data.bms.CELL_HI_V_OFF : Rat) / 1000 ∧
      r.cell_lo_index.toNat = byteNum buf s.board.data.bms.CELL_LO_IDX_OFF ∧
      r.cell_lo_V = (beNum16 buf s.board.data.bms.CELL_LO_V_OFF : Rat) / 1000

/-- R58, R276: `length >= 121 > |buf|` has no result. That the model refuses on the whole buffer, wherever the layout's
last field ends, is its own reading (notes/assumptions/13.md). -/
def Obligations.UntruthfulBmsLengthIsRefused : Prop :=
  ∀ (s : State) (length : Nat) (buf : List Byte), 121 ≤ length → buf.length < 121 →
    exec (.bmsDecode length buf) s = .refused .readOutsideSpace

/-- R51, R155: the record depends on the first 121 bytes alone. -/
def Obligations.BmsRecordDependsOnTheFirst121Bytes : Prop :=
  ∀ (s s' : State) (n n' : Nat) (buf buf' : List Byte), s.board = s'.board → 121 ≤ n → 121 ≤ n' →
    121 ≤ buf.length → buf.take 121 = buf'.take 121 →
    ∃ t t', exec (.bmsDecode n buf) s = .next t ∧ exec (.bmsDecode n' buf') s' = .next t' ∧ t.bmsRec = t'.bmsRec

/-- R151, R166: 121 zero bytes give exactly the default record, so a short buffer cannot be told from them. -/
def Obligations.ZeroFrameEqualsTheDefaultRecord : Prop :=
  ∀ s : State, ∃ t, exec (.bmsDecode 121 (List.replicate 121 0)) s = .next t ∧
    t.bmsRec = defaultRecord s.board.data.roms

/-! ### The DBC unit: dispatch -/

/-- R84, R180, R182: the entry operation does what the operation its identifier selects does, on every field of the
state. -/
def Obligations.DispatcherRunsTheSelectedDecoder : Prop :=
  ∀ (s : State) (id : Word) (dlc : Nat) (pay : Pay),
    exec (.dbcDecode id dlc pay) s = exec (select s.board.data.ids (.dbc id dlc pay)) s

/-- R183: a recognised identifier with enough bytes sets `success`, the message's tag, and that message's body, the one
its decoder gives. How it ended is the model's bookkeeping (notes/assumptions/7.md). -/
def Obligations.RecognisedIdentifierSucceedsWithItsTag : Prop :=
  ∀ (s : State) (k : MsgKind) (dlc : Nat) (pay : Pay), k.minDlc ≤ dlc →
    ∃ c : Container, c.tag = tagOf k ∧
      exec (.dbcDecode (k.id s.board.data.ids) dlc pay) s = .next { s with
        id := k.id s.board.data.ids, dlc := dlc, pay := Memory.ofPay pay,
        success := true, out := c, dbcEnding := .completed } ∧
      exec (decoderFor k dlc pay) s = exec (.dbcDecode (k.id s.board.data.ids) dlc pay) s

/-- R184: an unrecognised identifier fails as such, whatever `dlc` and the payload are. How it ended is the model's
bookkeeping (R245; notes/assumptions/7.md). -/
def Obligations.UnknownIdentifierFails : Prop :=
  ∀ (s : State) (id : Word) (dlc : Nat) (pay : Pay), (∀ k : MsgKind, k.id s.board.data.ids ≠ id) →
    exec (.dbcDecode id dlc pay) s = .next { s with
      id := id, dlc := dlc, pay := Memory.ofPay pay,
      success := false, out := .NONE, dbcEnding := .failed .E_DBC_UNKNOWN_ID }

/-- S7, R87 (a): 0xFFF is the identifier of no message. That no open identifier may be 0xFFF is the model's inference
(notes/assumptions/12.md). -/
def Obligations.IdentifierFffFails : Prop :=
  ∀ (s : State) (dlc : Nat) (pay : Pay),
    exec (.dbcDecode 0xFFF dlc pay) s = .next { s with
      id := 0xFFF, dlc := dlc, pay := Memory.ofPay pay,
      success := false, out := .NONE, dbcEnding := .failed .E_DBC_UNKNOWN_ID }

/-- R185, R200, R242: each message's minimum, and the failure below it. That the container is `NONE` then is the spec's
own choice (D23; notes/assumptions/21.md). -/
def Obligations.ShortDlcFailsEveryMessage : Prop :=
  ∀ (s : State) (dlc : Nat) (pay : Pay),
    let short (id : Word) : Out := .next { s with
      id := id, dlc := dlc, pay := Memory.ofPay pay,
      success := false, out := .NONE, dbcEnding := .failed .E_DBC_SHORT }
    (dlc < 8 → exec (.dbc18a dlc pay) s = short 0x18A ∧ exec (.dbc28a dlc pay) s = short 0x28A ∧
      exec (.dbc38a dlc pay) s = short 0x38A ∧ exec (.dbc20a dlc pay) s = short 0x20A ∧
      exec (.dbc30a dlc pay) s = short 0x30A ∧ exec (.dbcM9 dlc pay) s = short s.board.data.ids.ID_M9) ∧
    (dlc < 2 → exec (.dbcNodeCmd dlc pay) s = short s.board.data.ids.ID_NODE_CMD) ∧
    (dlc < 1 → exec (.dbcHbA dlc pay) s = short s.board.data.ids.ID_HB_A ∧
      exec (.dbcHbB dlc pay) s = short s.board.data.ids.ID_HB_B)

/-- R183, R184: success exactly when the identifier is a message's and `dlc` reaches its minimum; then the container is
that message's, its body what the message's field extraction gives of this payload and this configuration alone; under an
identifier of no message `success` is false and the container `NONE` with no body, whatever `dlc` and the payload are. -/
def Obligations.SuccessExactlyWhenRecognisedAndLongEnough : Prop :=
  ∀ (s : State) (id : Word) (dlc : Nat) (pay : Pay),
    ∃ t, exec (.dbcDecode id dlc pay) s = .next t ∧
      (t.success = true ↔ ∃ k : MsgKind, k.id s.board.data.ids = id ∧ k.minDlc ≤ dlc) ∧
      (∀ k : MsgKind, k.id s.board.data.ids = id → k.minDlc ≤ dlc →
        t.out.tag = tagOf k ∧ t.out = extract s.board.data k (Memory.ofPay pay)) ∧
      ((∀ k : MsgKind, k.id s.board.data.ids ≠ id) → t.success = false ∧ t.out = .NONE)

/-- R245: the two DBC failures cannot be told apart at the outputs. It rests on a short `dlc` leaving the container at
`NONE`, which is the spec's own choice (D23 in R185; notes/assumptions/21.md). -/
def Obligations.DbcFailuresLookTheSame : Prop :=
  ∀ (s : State) (k : MsgKind) (id : Word) (dlc dlc' : Nat) (pay pay' : Pay), dlc < k.minDlc →
    (∀ k' : MsgKind, k'.id s.board.data.ids ≠ id) →
    ∃ t t', exec (.dbcDecode (k.id s.board.data.ids) dlc pay) s = .next t ∧
      exec (.dbcDecode id dlc' pay') s = .next t' ∧ t.readDbc = some (false, .NONE) ∧ t'.readDbc = t.readDbc

/-- R86: `dlc` is a lower bound only. -/
def Obligations.LargerDlcChangesNothing : Prop :=
  ∀ (s : State) (k : MsgKind) (dlc dlc' : Nat) (pay : Pay), k.minDlc ≤ dlc → k.minDlc ≤ dlc' →
    ∃ t t', exec (decoderFor k dlc pay) s = .next t ∧ exec (decoderFor k dlc' pay) s = .next t' ∧
      t' = { t with dlc := dlc' }

/-! ### The DBC unit: the nine decoders -/

/-- R201. The flags' polarity and the nibbles' sharing one byte are the spec's own choices (D18;
notes/assumptions/21.md). -/
def Obligations.Dbc18aDecodesFieldsAndStatus : Prop :=
  ∀ (s : State) (dlc : Nat) (pay : Pay), 8 ≤ dlc →
    ∃ b : M18A,
      exec (.dbc18a dlc pay) s = .next { s with
        id := 0x18A, dlc := dlc, pay := Memory.ofPay pay,
        success := true, out := .M18A b, dbcEnding := .completed } ∧
      b.charging_current_A = (leNum16 (payBytes pay) s.board.data.dbc.M18A_I_OFF : Rat) / 256 ∧
      b.battery_voltage_V = (leNum16 (payBytes pay) s.board.data.dbc.M18A_V_OFF : Rat) / 256 ∧
      (b.flag_a = true ↔ stNum s.board.data.st (payBytes pay) s.board.data.st.FA 1 = 1) ∧
      (b.flag_b = true ↔ stNum s.board.data.st (payBytes pay) s.board.data.st.FB 1 = 1) ∧
      (b.flag_c = true ↔ stNum s.board.data.st (payBytes pay) s.board.data.st.FC 1 = 1) ∧
      (b.flag_d = true ↔ stNum s.board.data.st (payBytes pay) s.board.data.st.FD 1 = 1) ∧
      (b.override_enabled = true ↔ stNum s.board.data.st (payBytes pay) s.board.data.st.OV 2 ≠ 0) ∧
      b.enum1.val = stNum s.board.data.st (payBytes pay) s.board.data.st.N1 4 ∧
      b.cycle_type.val = (if stNum s.board.data.st (payBytes pay) s.board.data.st.N2 4 ≤ 2
        then stNum s.board.data.st (payBytes pay) s.board.data.st.N2 4 else 0)

/-- R202. How it ended is the model's bookkeeping (notes/assumptions/7.md). -/
def Obligations.Dbc28aDecodesTimeAhWh : Prop :=
  ∀ (s : State) (dlc : Nat) (pay : Pay), 8 ≤ dlc →
    exec (.dbc28a dlc pay) s = .next { s with
      id := 0x28A, dlc := dlc, pay := Memory.ofPay pay, success := true, dbcEnding := .completed,
      out := .M28A {
        elapsed_time := (leNum16 (payBytes pay) s.board.data.dbc.M28A_T_OFF : Rat) * 10
        ah_returned := (leNum32 (payBytes pay) s.board.data.dbc.M28A_AH_OFF : Rat) / 8
        wh_returned := (leNum16 (payBytes pay) s.board.data.dbc.M28A_WH_OFF : Rat) / 16 } }

/-- R203. How it ended is the model's bookkeeping (notes/assumptions/7.md). -/
def Obligations.Dbc38aKeepsTheCodeBesideItsText : Prop :=
  ∀ (s : State) (dlc : Nat) (pay : Pay), 8 ≤ dlc →
    exec (.dbc38a dlc pay) s = .next { s with
      id := 0x38A, dlc := dlc, pay := Memory.ofPay pay, success := true, dbcEnding := .completed,
      out := .M38A {
        current_error := BitVec.ofNat 32 (leNum32 (payBytes pay) s.board.data.dbc.M38A_ERR_OFF)
        current_error_text := errText s.board.data.roms
          (BitVec.ofNat 32 (leNum32 (payBytes pay) s.board.data.dbc.M38A_ERR_OFF))
        ac_voltage_V := (leNum16 (payBytes pay) s.board.data.dbc.M38A_VAC_OFF : Rat) / 16 } }

/-- R204. How it ended is the model's bookkeeping (notes/assumptions/7.md). -/
def Obligations.Dbc20aDecodesTheRequests : Prop :=
  ∀ (s : State) (dlc : Nat) (pay : Pay), 8 ≤ dlc →
    exec (.dbc20a dlc pay) s = .next { s with
      id := 0x20A, dlc := dlc, pay := Memory.ofPay pay, success := true, dbcEnding := .completed,
      out := .M20A {
        voltage_request_V := (leNum16 (payBytes pay) s.board.data.dbc.M20A_V_OFF : Rat) / 256
        current_request_A := (leNum16 (payBytes pay) s.board.data.dbc.M20A_I_OFF : Rat) / 16 } }

/-- R88, R205: three little-endian fields at 2, 4 and 6, the last one signed. The byte order and the order of the fields
are the spec's own choice (D17, C1; notes/assumptions/21.md). -/
def Obligations.Dbc30aDecodesThreeLittleEndianFields : Prop :=
  ∀ (s : State) (dlc : Nat) (pay : Pay), 8 ≤ dlc →
    exec (.dbc30a dlc pay) s = .next { s with
      id := 0x30A, dlc := dlc, pay := Memory.ofPay pay, success := true, dbcEnding := .completed,
      out := .M30A {
        charging_current_A := (leNum16 (payBytes pay) 2 : Rat) / 256
        battery_voltage_V := (leNum16 (payBytes pay) 4 : Rat) / 256
        temperature_C := (leInt16 (payBytes pay) 6 : Rat) / 8 - 40 } }

/-- R206. That the variant carries the two raw bytes is the spec's own choice (D21; notes/assumptions/21.md). -/
def Obligations.DbcNodeCmdCarriesTwoBytes : Prop :=
  ∀ (s : State) (dlc : Nat) (pay : Pay), 2 ≤ dlc →
    exec (.dbcNodeCmd dlc pay) s = .next { s with
      id := s.board.data.ids.ID_NODE_CMD, dlc := dlc, pay := Memory.ofPay pay,
      success := true, dbcEnding := .completed, out := .NODE_CMD { byte0 := pay.b0, byte1 := pay.b1 } }

/-- R207, R208. That each variant carries the raw byte is the spec's own choice (D21; notes/assumptions/21.md). -/
def Obligations.DbcHeartbeatsCarryOneByteEach : Prop :=
  ∀ (s : State) (dlc : Nat) (pay : Pay), 1 ≤ dlc →
    exec (.dbcHbA dlc pay) s = .next { s with
      id := s.board.data.ids.ID_HB_A, dlc := dlc, pay := Memory.ofPay pay,
      success := true, dbcEnding := .completed, out := .HB_A { byte0 := pay.b0 } } ∧
    exec (.dbcHbB dlc pay) s = .next { s with
      id := s.board.data.ids.ID_HB_B, dlc := dlc, pay := Memory.ofPay pay,
      success := true, dbcEnding := .completed, out := .HB_B { byte0 := pay.b0 } }

/-- R209: whatever the open function `DEC_M9` is. That its result is a list of bytes is the model's choice
(notes/assumptions/8.md). -/
def Obligations.DbcM9AppliesTheOpenFunction : Prop :=
  ∀ (s : State) (dlc : Nat) (pay : Pay), 8 ≤ dlc →
    exec (.dbcM9 dlc pay) s = .next { s with
      id := s.board.data.ids.ID_M9, dlc := dlc, pay := Memory.ofPay pay,
      success := true, dbcEnding := .completed, out := .M9 (Config.decM9 s.board.data.roms pay) }

/-- R210: the range and step of every scaled DBC field. -/
def Obligations.DbcScaledValuesStayInTheirRanges : Prop :=
  ∀ (s : State) (id : Word) (dlc : Nat) (pay : Pay),
    ∃ t, exec (.dbcDecode id dlc pay) s = .next t ∧
      (∀ b, t.out = .M18A b → InSteps 0 255.99609375 0.00390625 b.charging_current_A ∧
        InSteps 0 255.99609375 0.00390625 b.battery_voltage_V) ∧
      (∀ b, t.out = .M28A b → InSteps 0 655350 10 b.elapsed_time ∧
        InSteps 0 536870911.875 0.125 b.ah_returned ∧ InSteps 0 4095.9375 0.0625 b.wh_returned) ∧
      (∀ b, t.out = .M38A b → InSteps 0 4095.9375 0.0625 b.ac_voltage_V) ∧
      (∀ b, t.out = .M20A b → InSteps 0 255.99609375 0.00390625 b.voltage_request_V ∧
        InSteps 0 4095.9375 0.0625 b.current_request_A) ∧
      (∀ b, t.out = .M30A b → InSteps 0 255.99609375 0.00390625 b.charging_current_A ∧
        InSteps 0 255.99609375 0.00390625 b.battery_voltage_V ∧
        InSteps (-4136) 4055.875 0.125 b.temperature_C)

/-! ### What each group of operations leaves unchanged -/

/-- R25, R57, R252: a DBC operation leaves the configuration, the other transactions, the whole BMS unit and every byte
of its buffer unchanged, and its own payload reads as it was presented. That the ports keep what they hold until
the unit's next transaction is the model's choice (notes/assumptions/30.md). -/
def Obligations.DbcOperationsLeaveTheBmsUnitAlone : Prop :=
  ∀ (i : Instr) (p : Pay) (s : State), dbcUnitOp i = some p →
    ∃ t, exec i s = .next t ∧ t.board = s.board ∧ t.pending = s.pending ∧ t.length = s.length ∧
      t.buf.size = s.buf.size ∧ (∀ a, t.buf.read a = s.buf.read a) ∧ t.bmsRec = s.bmsRec ∧
      t.bmsEnding = s.bmsEnding ∧ t.opResult = s.opResult ∧ (∀ a, t.pay.read a = (payBytes p)[a]?)

/-- R25, R57, R252: a BMS operation leaves the configuration, the other transactions, the whole DBC unit and every byte
of its payload unchanged, and its own buffer reads as it was presented. That the ports keep what they hold until
the unit's next transaction is the model's choice (notes/assumptions/30.md). -/
def Obligations.BmsOperationLeavesTheDbcUnitAlone : Prop :=
  ∀ (s : State) (length : Nat) (buf : List Byte), (length < 121 ∨ 121 ≤ buf.length) →
    ∃ t, exec (.bmsDecode length buf) s = .next t ∧ t.board = s.board ∧ t.pending = s.pending ∧ t.id = s.id ∧
      t.dlc = s.dlc ∧ t.pay.size = s.pay.size ∧ (∀ a, t.pay.read a = s.pay.read a) ∧ t.success = s.success ∧
      t.out = s.out ∧ t.dbcEnding = s.dbcEnding ∧ t.opResult = s.opResult ∧ (∀ a, t.buf.read a = buf[a]?)

/-- R110, R142: an internal operation that returns changes nothing but the value it returned. -/
def Obligations.InternalOperationsOnlyReturnAValue : Prop :=
  ∀ (i : Instr) (s t : State), internalOp i = true → exec i s = .next t →
    t = { s with opResult := t.opResult } ∧ (∀ S a, (t.space S).read a = (s.space S).read a)

/-- R143, R271, R272: no operation changes the configuration or a ROM. -/
def Obligations.NoOperationChangesTheConfiguration : Prop :=
  ∀ (i : Instr) (s t : State), exec i s = .next t → t.board = s.board

/-! ### The whole machine -/

/-- R34, R270: the state after reset. That the output ports hold these values before the first transaction is the
model's choice (notes/assumptions/4.md); that they cannot be read is the rule's. -/
def Obligations.AfterResetNothingIsReadable : Prop :=
  State.reset.out.tag = .NONE ∧ State.reset.success = false ∧
    State.reset.bmsRec = defaultRecord State.reset.board.data.roms ∧
    State.reset.readBms = none ∧ State.reset.readDbc = none

/-- The invariant holds after reset. The spec gives the ports no value before the first transaction (R34): that
`success = (out.tag != NONE)` holds there is the model's choice of the output ports' values (notes/assumptions/4.md,
unsafe), and that `PAY` has 8 bytes and both spaces are canonical its choice of the input ports' (notes/assumptions/5.md,
unsafe). -/
def Obligations.InvariantHoldsAfterReset : Prop := State.reset.Inv

/-- R24, R28: every step keeps the invariant: canonical memories, the 8-byte payload, `success = (out.tag != NONE)`, and
each unit's outputs the function of its inputs and the ROMs. That
the ports keep what they hold until the unit's next transaction is the model's choice (notes/assumptions/30.md). -/
def Obligations.EveryStepKeepsTheInvariant : Prop :=
  ∀ s t : State, s.Inv → step s = .next t → t.Inv

/-- R240, R258: a step has no result exactly when the host broke R276 with `length >= 121 > |buf|`
(notes/assumptions/13.md); nothing is fatal. -/
def Obligations.StepIsRefusedOnlyForAnUntruthfulLength : Prop :=
  ∀ s : State,
    (∀ f, step s ≠ .fault f) ∧
    (∀ r, step s = .refused r ↔ r = .readOutsideSpace ∧
      ∃ length buf rest, s.pending = .bms length buf :: rest ∧ 121 ≤ length ∧ buf.length < 121)

/-- R28: the outputs of a transaction depend on its inputs and the configuration, and on nothing an earlier
transaction left. A BMS transaction with `length >= 121 > |buf|` is left out because it has no outputs (R58); every other
form of both units is covered. -/
def Obligations.ResultsDependOnNoEarlierTransaction : Prop :=
  ∀ (t : Transaction) (rest rest' : List Transaction) (s s' : State), hasResult t = true → s.board = s'.board →
    s.pending = t :: rest → s'.pending = t :: rest' →
    ∃ u u', step s = .next u ∧ step s' = .next u' ∧ outputsFor t u = outputsFor t u' ∧
      outputsFor t u = pureResult s.board.data t

/-- R252, R281: a BMS and a DBC transaction, run in either order, leave the same state. That the ports keep what they hold until
the unit's next transaction is the model's choice (notes/assumptions/30.md). -/
def Obligations.TheTwoUnitsCommute : Prop :=
  ∀ (s : State) (length : Nat) (buf : List Byte) (id : Word) (dlc : Nat) (pay : Pay),
    (length < 121 ∨ 121 ≤ buf.length) →
    ∃ t u v, exec (.bmsDecode length buf) s = .next t ∧ exec (.dbcDecode id dlc pay) t = .next v ∧
      exec (.dbcDecode id dlc pay) s = .next u ∧ exec (.bmsDecode length buf) u = .next v

/-- R283, R281, R28: a list of transactions each of which has a result (R58, R276) runs to its end and leaves, position
by position, the result each transaction has alone, from any state. -/
def Obligations.ARunCollectsEachTransactionsOwnResult : Prop :=
  ∀ s : State, (∀ t ∈ s.pending, hasResult t = true) →
    collect s.pending s = some (s.pending.map (pureResult s.board.data))

/-- R20, R34: after a transaction the host can read its unit, and reads the pure function of the inputs.
A BMS transaction with `length >= 121 > |buf|` has no result to read (R58). -/
def Obligations.HostReadsThePureFunctionAfterAStep : Prop :=
  ∀ (s : State) (rest : List Transaction),
    (∀ length buf, s.pending = .bms length buf :: rest → (length < 121 ∨ 121 ≤ buf.length) →
      ∃ t, step s = .next t ∧ t.readBms = some (bmsDecodePure s.board.data buf length)) ∧
    (∀ id dlc pay, s.pending = .dbc id dlc pay :: rest →
      ∃ t, step s = .next t ∧ t.readDbc = some (dbcDecodePure s.board.data id pay dlc))

/-! ### Memory -/

/-- R51, R52, R58: a presented space reads byte for byte as presented, has no byte outside, and is canonical. -/
def Obligations.PresentedBytesReadBack : Prop :=
  ∀ l : List Byte, (Memory.ofBytes l).wf = true ∧ (Memory.ofBytes l).size = l.length ∧
    ∀ k, (Memory.ofBytes l).read k = l[k]?

/-- Spaces in canonical form that read alike are equal; the form is the model's (notes/assumptions/19.md). -/
def Obligations.CanonicalMemoriesAreEqualWhenTheyReadAlike : Prop :=
  ∀ m m' : Memory, m.wf = true → m'.wf = true → m.size = m'.size → (∀ k, m.read k = m'.read k) → m = m'
end

