-- ==== Sys2Proof/Laws/Board.lean ====
section
/-! SUPPORT. The constraints of spec/00_scope.md R8, read off a board one at a time. -/

namespace Sys2Proof

theorem Board.parts (b : Board) :
    b.data.bms.wf = true ∧ b.data.dbc.wf = true ∧ b.data.st.wf = true ∧ b.data.ids.wf = true ∧
      b.data.roms.wf = true := by
  have h := b.ok
  simp only [Config.wf, Bool.and_eq_true] at h
  exact ⟨h.1.1.1.1, h.1.1.1.2, h.1.1.2, h.1.2, h.2⟩

/-- R155, field by field. -/
theorem Board.bms_fits (b : Board) :
    b.data.bms.PACK_I_OFF + 2 ≤ 121 ∧ b.data.bms.SOC_OFF + 1 ≤ 121 ∧ b.data.bms.TEMP_MOS_OFF + 2 ≤ 121 ∧
    b.data.bms.TEMP_BAL_OFF + 2 ≤ 121 ∧ b.data.bms.TEMP_EXT_OFF + 8 ≤ 121 ∧ b.data.bms.CAP_PHYS_OFF + 4 ≤ 121 ∧
    b.data.bms.CAP_REM_OFF + 4 ≤ 121 ∧ b.data.bms.CAP_CYC_OFF + 4 ≤ 121 ∧ b.data.bms.CHG_MOS_OFF + 1 ≤ 121 ∧
    b.data.bms.DSG_MOS_OFF + 1 ≤ 121 ∧ b.data.bms.BAL_OFF + 1 ≤ 121 ∧ b.data.bms.CELL_HI_IDX_OFF + 1 ≤ 121 ∧
    b.data.bms.CELL_HI_V_OFF + 2 ≤ 121 ∧ b.data.bms.CELL_LO_IDX_OFF + 1 ≤ 121 ∧
    b.data.bms.CELL_LO_V_OFF + 2 ≤ 121 := by
  have h := b.parts.1
  simpa [BmsLayout.wf, BmsLayout.fields] using h

/-- R90, field by field. -/
theorem Board.dbc_fits (b : Board) :
    b.data.dbc.M18A_I_OFF + 2 ≤ 8 ∧ b.data.dbc.M18A_V_OFF + 2 ≤ 8 ∧ b.data.dbc.M28A_T_OFF + 2 ≤ 8 ∧
    b.data.dbc.M28A_AH_OFF + 4 ≤ 8 ∧ b.data.dbc.M28A_WH_OFF + 2 ≤ 8 ∧ b.data.dbc.M38A_ERR_OFF + 4 ≤ 8 ∧
    b.data.dbc.M38A_VAC_OFF + 2 ≤ 8 ∧ b.data.dbc.M20A_V_OFF + 2 ≤ 8 ∧ b.data.dbc.M20A_I_OFF + 2 ≤ 8 := by
  have h := b.parts.2.1
  simpa [DbcLayout.wf, DbcLayout.fields] using h

/-- R92: the two status bytes lie inside the payload. -/
theorem Board.st_fits (b : Board) : b.data.st.ST_A_OFF < 8 ∧ b.data.st.ST_B_OFF < 8 ∧
    b.data.st.ST_A_OFF ≠ b.data.st.ST_B_OFF := by
  have h := b.parts.2.2.1
  simp only [StLayout.wf, Bool.and_eq_true] at h
  exact ⟨of_decide_eq_true h.1.1.1.1.1.1, of_decide_eq_true h.1.1.1.1.1.2, of_decide_eq_true h.1.1.1.1.2⟩

/-- R85 with S7: the nine identifiers are distinct, and none is 0xFFF. -/
theorem Board.ids_distinct (b : Board) :
    (MsgKind.all.map (MsgKind.id b.data.ids)).Nodup ∧ (0xFFF : Word) ∉ MsgKind.all.map (MsgKind.id b.data.ids) := by
  have h := b.parts.2.2.2.1
  simpa only [Ids.wf, Bool.and_eq_true, decide_eq_true_eq, ID_UNKNOWN_EXAMPLE] using h

theorem MsgKind.mem_all (k : MsgKind) : k ∈ MsgKind.all := by cases k <;> decide

/-- R135: the two facts about the error ROM. -/
theorem Board.err_rom (b : Board) :
    (394301440 : Word) ∈ b.data.roms.ERR_ROM.map Prod.fst ∧ (1 : Word) ∉ b.data.roms.ERR_ROM.map Prod.fst := by
  have h := b.parts.2.2.2.2
  simp only [Roms.wf, Bool.and_eq_true, decide_eq_true_eq] at h
  exact ⟨h.1.2, h.2⟩

/-- Every ROM's keys rise. -/
theorem Board.roms_rise (b : Board) :
    rising (b.data.roms.CHG_MOS_ROM.map fun e => e.1.toNat) = true ∧
    rising (b.data.roms.DSG_MOS_ROM.map fun e => e.1.toNat) = true ∧
    rising (b.data.roms.BAL_ROM.map fun e => e.1.toNat) = true ∧
    rising (b.data.roms.ERR_ROM.map fun e => e.1.toNat) = true ∧
    rising (b.data.roms.ENUM1_ROM.map fun e => e.1.val) = true ∧
    rising (b.data.roms.CYCLE_ROM.map fun e => e.1.val) = true := by
  have h := b.parts.2.2.2.2
  simp only [Roms.wf, Bool.and_eq_true] at h
  exact ⟨h.1.1.1.1.1.1.1, h.1.1.1.1.1.1.2, h.1.1.1.1.1.2, h.1.1.1.1.2, h.1.1.1.2, h.1.1.2⟩

end Sys2Proof
end

