-- ==== Sys2Proof/Laws/Lut.lean ====
section
/-! SUPPORT. What a ROM look-up gives. -/

namespace Sys2Proof.Machine

open Sys2Proof

section

variable {κ : Type} [DecidableEq κ]

/-- No entry exactly when the code is no key. -/
theorem romGet_eq_none_iff (rom : List (κ × Text)) (c : κ) : romGet rom c = none ↔ c ∉ rom.map Prod.fst := by
  induction rom with
  | nil => simp [romGet]
  | cons e r ih =>
    obtain ⟨k, t⟩ := e
    by_cases h : k = c
    · simp [romGet, h]
    · simp [romGet, h, ih, Ne.symm h]

/-- What the look-up gives stands in the ROM under the code. -/
theorem mem_of_romGet (rom : List (κ × Text)) (c : κ) (t : Text) (h : romGet rom c = some t) : (c, t) ∈ rom := by
  induction rom with
  | nil => simp [romGet] at h
  | cons e r ih =>
    obtain ⟨k, u⟩ := e
    by_cases hk : k = c
    · simp [romGet, hk] at h; simp [hk, h]
    · simp [romGet, hk] at h; exact List.mem_cons_of_mem _ (ih h)

/-- With each code a key once, an entry is what the look-up gives. -/
theorem romGet_of_mem (rom : List (κ × Text)) (hd : (rom.map Prod.fst).Nodup) (c : κ) (t : Text)
    (h : (c, t) ∈ rom) : romGet rom c = some t := by
  induction rom with
  | nil => simp at h
  | cons e r ih =>
    obtain ⟨k, u⟩ := e
    simp only [List.map_cons, List.nodup_cons] at hd
    rcases List.mem_cons.1 h with he | hr
    · obtain ⟨rfl, rfl⟩ := Prod.mk.inj he
      simp [romGet]
    · have : k ≠ c := fun hk => hd.1 (hk ▸ List.mem_map_of_mem (f := Prod.fst) hr)
      simp [romGet, this, ih hd.2 hr]

theorem smallText_of_not_key (rom : List (κ × Text)) (c : κ) (h : c ∉ rom.map Prod.fst) :
    smallText rom c = unknownText := by
  simp [smallText, (romGet_eq_none_iff rom c).2 h]

end

/-- The clamp in full (R141). -/
theorem cycleClamp_val (n : Fin 16) : (cycleClamp n).val = if n.val ≤ 2 then n.val else 0 := by
  unfold cycleClamp; split <;> rfl

end Sys2Proof.Machine
end

