-- ==== Sys2Proof/Laws/Memory.lean ====
section
/-! SUPPORT. The laws of a byte space: what presenting bytes gives, and that it keeps the canonical form. -/

namespace Sys2Proof.Machine

open Sys2Proof

/-- Entries from `k` on say nothing of an offset before `k`. -/
theorem cellAt_cellsFrom_lt (l : List Byte) (k j : Nat) (h : j < k) : cellAt (cellsFrom k l) j = fillerByte := by
  induction l generalizing k with
  | nil => rfl
  | cons b r ih =>
    simp only [cellsFrom]
    split
    · exact ih (k + 1) (by omega)
    · simp only [cellAt]
      rw [if_neg (by omega)]
      exact ih (k + 1) (by omega)

/-- The entries of a list give its bytes back. -/
theorem cellAt_cellsFrom (l : List Byte) (k j : Nat) : cellAt (cellsFrom k l) (k + j) = l.getD j fillerByte := by
  induction l generalizing k j with
  | nil => rfl
  | cons b r ih =>
    cases j with
    | zero =>
      simp only [cellsFrom, Nat.add_zero, List.getD_cons_zero]
      split
      · next h => rw [cellAt_cellsFrom_lt r (k + 1) k (by omega), h]
      · simp [cellAt]
    | succ j =>
      have e : k + (j + 1) = (k + 1) + j := by omega
      simp only [cellsFrom, List.getD_cons_succ]
      split
      · rw [e, ih]
      · simp only [cellAt]
        rw [if_neg (by omega), e, ih]

@[simp] theorem size_ofBytes (l : List Byte) : (Memory.ofBytes l).size = l.length := rfl

@[simp] theorem size_ofPay (p : Pay) : (Memory.ofPay p).size = 8 := rfl

@[simp] theorem byteAt_ofBytes (l : List Byte) (k : Nat) : (Memory.ofBytes l).byteAt k = l.getD k 0 := by
  have h := cellAt_cellsFrom l 0 k
  rw [Nat.zero_add] at h
  exact h

@[simp] theorem byteAt_ofPay (p : Pay) (k : Nat) : (Memory.ofPay p).byteAt k = (payBytes p).getD k 0 :=
  byteAt_ofBytes _ _

@[simp] theorem toPay_ofPay (p : Pay) : (Memory.ofPay p).toPay = p := by
  simp [Memory.toPay, payBytes]

/-- Rising entries from a later offset are rising from an earlier one. -/
theorem cellsWf_mono (size : Nat) (cs : List Host.Cell) (k j : Nat) (h : j ≤ k) (w : cellsWf size k cs = true) :
    cellsWf size j cs = true := by
  cases cs with
  | nil => rfl
  | cons c r =>
    obtain ⟨a, b⟩ := c
    simp only [cellsWf, Bool.and_eq_true, decide_eq_true_eq] at w ⊢
    exact ⟨⟨⟨by omega, w.1.1.2⟩, w.1.2⟩, w.2⟩

theorem cellsWf_cellsFrom (l : List Byte) (k size : Nat) (h : k + l.length ≤ size) :
    cellsWf size k (cellsFrom k l) = true := by
  induction l generalizing k with
  | nil => rfl
  | cons b r ih =>
    simp only [List.length_cons] at h
    simp only [cellsFrom]
    split
    · exact cellsWf_mono _ _ _ _ (by omega) (ih (k + 1) (by omega))
    · next hb =>
      simp only [cellsWf, Bool.and_eq_true, decide_eq_true_eq]
      exact ⟨⟨⟨by omega, by omega⟩, hb⟩, ih (k + 1) (by omega)⟩

/-- Presenting bytes gives the canonical form. -/
@[simp] theorem wf_ofBytes (l : List Byte) : (Memory.ofBytes l).wf = true :=
  cellsWf_cellsFrom l 0 l.length (by omega)

@[simp] theorem wf_ofPay (p : Pay) : (Memory.ofPay p).wf = true := wf_ofBytes _

/-- `MemRead` in full: its bytes, exactly when they lie inside the space. -/
theorem memRead_eq_some_iff (m : Memory) (k n : Nat) (l : List Byte) :
    m.memRead k n = some l ↔ k + n ≤ m.size ∧ l = (List.range n).map fun j => m.byteAt (k + j) := by
  unfold Memory.memRead
  split <;> simp_all [eq_comm]

theorem memRead_eq_none_iff (m : Memory) (k n : Nat) : m.memRead k n = none ↔ m.size < k + n := by
  unfold Memory.memRead
  split <;> simp_all

end Sys2Proof.Machine
end

