-- ==== Sys2Proof/Laws/State.lean ====
section
/-! SUPPORT. One lemma per field per update of the state. -/

namespace Sys2Proof.Machine

open Sys2Proof

variable (s : State)

section PresentBms

variable (length : Nat) (buf : List Byte)

@[simp] theorem presentBms_board : (presentBms length buf s).board = s.board := rfl
@[simp] theorem presentBms_pending : (presentBms length buf s).pending = s.pending := rfl
@[simp] theorem presentBms_length : (presentBms length buf s).length = length := rfl
@[simp] theorem presentBms_buf : (presentBms length buf s).buf = Memory.ofBytes buf := rfl
@[simp] theorem presentBms_bmsRec : (presentBms length buf s).bmsRec = s.bmsRec := rfl
@[simp] theorem presentBms_bmsEnding : (presentBms length buf s).bmsEnding = s.bmsEnding := rfl
@[simp] theorem presentBms_id : (presentBms length buf s).id = s.id := rfl
@[simp] theorem presentBms_dlc : (presentBms length buf s).dlc = s.dlc := rfl
@[simp] theorem presentBms_pay : (presentBms length buf s).pay = s.pay := rfl
@[simp] theorem presentBms_success : (presentBms length buf s).success = s.success := rfl
@[simp] theorem presentBms_out : (presentBms length buf s).out = s.out := rfl
@[simp] theorem presentBms_dbcEnding : (presentBms length buf s).dbcEnding = s.dbcEnding := rfl
@[simp] theorem presentBms_opResult : (presentBms length buf s).opResult = s.opResult := rfl

end PresentBms

section PresentDbc

variable (id : Word) (dlc : Nat) (pay : Pay)

@[simp] theorem presentDbc_board : (presentDbc id dlc pay s).board = s.board := rfl
@[simp] theorem presentDbc_pending : (presentDbc id dlc pay s).pending = s.pending := rfl
@[simp] theorem presentDbc_length : (presentDbc id dlc pay s).length = s.length := rfl
@[simp] theorem presentDbc_buf : (presentDbc id dlc pay s).buf = s.buf := rfl
@[simp] theorem presentDbc_bmsRec : (presentDbc id dlc pay s).bmsRec = s.bmsRec := rfl
@[simp] theorem presentDbc_bmsEnding : (presentDbc id dlc pay s).bmsEnding = s.bmsEnding := rfl
@[simp] theorem presentDbc_id : (presentDbc id dlc pay s).id = id := rfl
@[simp] theorem presentDbc_dlc : (presentDbc id dlc pay s).dlc = dlc := rfl
@[simp] theorem presentDbc_pay : (presentDbc id dlc pay s).pay = Memory.ofPay pay := rfl
@[simp] theorem presentDbc_success : (presentDbc id dlc pay s).success = s.success := rfl
@[simp] theorem presentDbc_out : (presentDbc id dlc pay s).out = s.out := rfl
@[simp] theorem presentDbc_dbcEnding : (presentDbc id dlc pay s).dbcEnding = s.dbcEnding := rfl
@[simp] theorem presentDbc_opResult : (presentDbc id dlc pay s).opResult = s.opResult := rfl

end PresentDbc

section ReturnValue

variable (v : OpResult)

@[simp] theorem returnValue_board : (returnValue v s).board = s.board := rfl
@[simp] theorem returnValue_pending : (returnValue v s).pending = s.pending := rfl
@[simp] theorem returnValue_length : (returnValue v s).length = s.length := rfl
@[simp] theorem returnValue_buf : (returnValue v s).buf = s.buf := rfl
@[simp] theorem returnValue_bmsRec : (returnValue v s).bmsRec = s.bmsRec := rfl
@[simp] theorem returnValue_bmsEnding : (returnValue v s).bmsEnding = s.bmsEnding := rfl
@[simp] theorem returnValue_id : (returnValue v s).id = s.id := rfl
@[simp] theorem returnValue_dlc : (returnValue v s).dlc = s.dlc := rfl
@[simp] theorem returnValue_pay : (returnValue v s).pay = s.pay := rfl
@[simp] theorem returnValue_success : (returnValue v s).success = s.success := rfl
@[simp] theorem returnValue_out : (returnValue v s).out = s.out := rfl
@[simp] theorem returnValue_dbcEnding : (returnValue v s).dbcEnding = s.dbcEnding := rfl
@[simp] theorem returnValue_opResult : (returnValue v s).opResult = v := rfl

end ReturnValue

section EndBms

variable (r : Except Failure BmsRecord)

@[simp] theorem endBms_board : (endBms r s).board = s.board := by cases r <;> rfl
@[simp] theorem endBms_pending : (endBms r s).pending = s.pending := by cases r <;> rfl
@[simp] theorem endBms_length : (endBms r s).length = s.length := by cases r <;> rfl
@[simp] theorem endBms_buf : (endBms r s).buf = s.buf := by cases r <;> rfl
@[simp] theorem endBms_ok_bmsRec (x : BmsRecord) : (endBms (.ok x) s).bmsRec = x := rfl
@[simp] theorem endBms_error_bmsRec (f : Failure) :
    (endBms (.error f) s).bmsRec = defaultRecord s.board.data.roms := rfl
@[simp] theorem endBms_ok_bmsEnding (x : BmsRecord) : (endBms (.ok x) s).bmsEnding = .completed := rfl
@[simp] theorem endBms_error_bmsEnding (f : Failure) : (endBms (.error f) s).bmsEnding = .failed f := rfl
theorem endBms_bmsEnding_ne : (endBms r s).bmsEnding ≠ .notRun := by cases r <;> simp
@[simp] theorem endBms_id : (endBms r s).id = s.id := by cases r <;> rfl
@[simp] theorem endBms_dlc : (endBms r s).dlc = s.dlc := by cases r <;> rfl
@[simp] theorem endBms_pay : (endBms r s).pay = s.pay := by cases r <;> rfl
@[simp] theorem endBms_success : (endBms r s).success = s.success := by cases r <;> rfl
@[simp] theorem endBms_out : (endBms r s).out = s.out := by cases r <;> rfl
@[simp] theorem endBms_dbcEnding : (endBms r s).dbcEnding = s.dbcEnding := by cases r <;> rfl
@[simp] theorem endBms_opResult : (endBms r s).opResult = s.opResult := by cases r <;> rfl

/-- Ending a transaction twice with the same result is ending it once. -/
@[simp] theorem endBms_endBms : endBms r (endBms r s) = endBms r s := by cases r <;> rfl

end EndBms

section EndDbc

variable (r : Except Failure Container)

@[simp] theorem endDbc_board : (endDbc r s).board = s.board := by cases r <;> rfl
@[simp] theorem endDbc_pending : (endDbc r s).pending = s.pending := by cases r <;> rfl
@[simp] theorem endDbc_length : (endDbc r s).length = s.length := by cases r <;> rfl
@[simp] theorem endDbc_buf : (endDbc r s).buf = s.buf := by cases r <;> rfl
@[simp] theorem endDbc_bmsRec : (endDbc r s).bmsRec = s.bmsRec := by cases r <;> rfl
@[simp] theorem endDbc_bmsEnding : (endDbc r s).bmsEnding = s.bmsEnding := by cases r <;> rfl
@[simp] theorem endDbc_id : (endDbc r s).id = s.id := by cases r <;> rfl
@[simp] theorem endDbc_dlc : (endDbc r s).dlc = s.dlc := by cases r <;> rfl
@[simp] theorem endDbc_pay : (endDbc r s).pay = s.pay := by cases r <;> rfl
@[simp] theorem endDbc_opResult : (endDbc r s).opResult = s.opResult := by cases r <;> rfl
@[simp] theorem endDbc_ok_success (c : Container) : (endDbc (.ok c) s).success = true := rfl
@[simp] theorem endDbc_error_success (f : Failure) : (endDbc (.error f) s).success = false := rfl
@[simp] theorem endDbc_ok_out (c : Container) : (endDbc (.ok c) s).out = c := rfl
@[simp] theorem endDbc_error_out (f : Failure) : (endDbc (.error f) s).out = .NONE := rfl
@[simp] theorem endDbc_ok_dbcEnding (c : Container) : (endDbc (.ok c) s).dbcEnding = .completed := rfl
@[simp] theorem endDbc_error_dbcEnding (f : Failure) : (endDbc (.error f) s).dbcEnding = .failed f := rfl
theorem endDbc_dbcEnding_ne : (endDbc r s).dbcEnding ≠ .notRun := by cases r <;> simp

/-- Ending a transaction twice with the same result is ending it once. -/
@[simp] theorem endDbc_endDbc : endDbc r (endDbc r s) = endDbc r s := by cases r <;> rfl

end EndDbc

end Sys2Proof.Machine
end

