-- ==== Sys2Proof/Laws/Ops.lean ====
section
/-! SUPPORT. One lemma per shared operation that says what it gives. -/

namespace Sys2Proof.Machine

open Sys2Proof

/-- `|` of a shifted number and one below the shift is `+` (R118). -/
theorem or_eq_add (i x y : Nat) (h : y < 2 ^ i) : x <<< i ||| y = x <<< i + y :=
  (Nat.shiftLeft_add_eq_or_of_lt h x).symm

/-- A byte widened to `n` bits loses nothing when it is shifted by less than `n - 7` (R10). -/
theorem toNat_widened_shift (b : Byte) (n i : Nat) (h : i + 8 ≤ n) :
    (b.setWidth n <<< i).toNat = b.toNat <<< i := by
  have hb := b.isLt
  have h1 : 2 ^ 8 ≤ 2 ^ n := Nat.pow_le_pow_right (by omega) (by omega)
  have h2 : b.toNat * 2 ^ i < 2 ^ n := by
    calc b.toNat * 2 ^ i < 2 ^ 8 * 2 ^ i := Nat.mul_lt_mul_of_pos_right hb (Nat.two_pow_pos i)
      _ = 2 ^ (8 + i) := (Nat.pow_add 2 8 i).symm
      _ ≤ 2 ^ n := Nat.pow_le_pow_right (by omega) (by omega)
  have h3 : b.toNat % 2 ^ n = b.toNat := Nat.mod_eq_of_lt (by omega)
  rw [BitVec.toNat_shiftLeft, BitVec.toNat_setWidth, h3, Nat.shiftLeft_eq, Nat.mod_eq_of_lt h2]

theorem toNat_widened (b : Byte) (n : Nat) (h : 8 ≤ n) : (b.setWidth n).toNat = b.toNat := by
  have h1 : 2 ^ 8 ≤ 2 ^ n := Nat.pow_le_pow_right (by omega) h
  rw [BitVec.toNat_setWidth, Nat.mod_eq_of_lt (by have := b.isLt; omega)]

/-- Two bytes as a number (R111, R113, R118). -/
theorem half_toNat (a b : Byte) : (a.setWidth 16 <<< 8 ||| b.setWidth 16).toNat = 256 * a.toNat + b.toNat := by
  rw [BitVec.toNat_or, toNat_widened_shift a 16 8 (by omega), toNat_widened b 16 (by omega),
    or_eq_add 8 _ _ b.isLt, Nat.shiftLeft_eq]
  omega

/-- Four bytes as a number (R112, R115, R118). -/
theorem word_toNat (a b c d : Byte) :
    (a.setWidth 32 <<< 24 ||| b.setWidth 32 <<< 16 ||| c.setWidth 32 <<< 8 ||| d.setWidth 32).toNat =
      16777216 * a.toNat + 65536 * b.toNat + 256 * c.toNat + d.toNat := by
  have hb := b.isLt
  have hc := c.isLt
  rw [BitVec.toNat_or, BitVec.toNat_or, BitVec.toNat_or, toNat_widened_shift a 32 24 (by omega),
    toNat_widened_shift b 32 16 (by omega), toNat_widened_shift c 32 8 (by omega), toNat_widened d 32 (by omega)]
  have e1 : a.toNat <<< 24 ||| b.toNat <<< 16 = (a.toNat <<< 8 ||| b.toNat) <<< 16 := by
    rw [Nat.shiftLeft_or_distrib, ← Nat.shiftLeft_add]
  have e2 : ∀ x y : Nat, x <<< 16 ||| y <<< 8 = (x <<< 8 ||| y) <<< 8 := by
    intro x y
    rw [Nat.shiftLeft_or_distrib, ← Nat.shiftLeft_add]
  rw [e1, e2, or_eq_add 8 _ _ d.isLt, or_eq_add 8 _ _ hc, or_eq_add 8 _ _ hb]
  simp only [Nat.shiftLeft_eq]
  omega

/-- `BE16U` as a number (R111). -/
theorem be16u_toNat (m : Memory) (k : Nat) :
    (be16u m k).toNat = 256 * (m.byteAt k).toNat + (m.byteAt (k + 1)).toNat := half_toNat _ _

/-- `LE16U` as a number (R113). -/
theorem le16u_toNat (m : Memory) (k : Nat) :
    (le16u m k).toNat = 256 * (m.byteAt (k + 1)).toNat + (m.byteAt k).toNat := half_toNat _ _

/-- `BE32U` as a number (R112). -/
theorem be32u_toNat (m : Memory) (k : Nat) :
    (be32u m k).toNat = 16777216 * (m.byteAt k).toNat + 65536 * (m.byteAt (k + 1)).toNat
      + 256 * (m.byteAt (k + 2)).toNat + (m.byteAt (k + 3)).toNat := word_toNat _ _ _ _

/-- `LE32U` as a number (R115). -/
theorem le32u_toNat (m : Memory) (k : Nat) :
    (le32u m k).toNat = 16777216 * (m.byteAt (k + 3)).toNat + 65536 * (m.byteAt (k + 2)).toNat
      + 256 * (m.byteAt (k + 1)).toNat + (m.byteAt k).toNat := word_toNat _ _ _ _

/-- `LE16S` as a number (R114). -/
theorem le16s_eq (m : Memory) (k : Nat) :
    le16s m k = if (le16u m k).toNat < 32768 then ((le16u m k).toNat : Int) else ((le16u m k).toNat : Int) - 65536 :=
  rfl

/-- Two spaces that hold the same byte at an offset give the same `U8` there. -/
theorem u8_congr {m m' : Memory} {k : Nat} (h : m.byteAt k = m'.byteAt k) : u8 m k = u8 m' k := h

/-- Two spaces that hold the same two bytes give the same `BE16U`. -/
theorem be16u_congr {m m' : Memory} {k : Nat} (h0 : m.byteAt k = m'.byteAt k)
    (h1 : m.byteAt (k + 1) = m'.byteAt (k + 1)) : be16u m k = be16u m' k := by
  unfold be16u; rw [h0, h1]

/-- Two spaces that hold the same four bytes give the same `BE32U`. -/
theorem be32u_congr {m m' : Memory} {k : Nat} (h0 : m.byteAt k = m'.byteAt k)
    (h1 : m.byteAt (k + 1) = m'.byteAt (k + 1)) (h2 : m.byteAt (k + 2) = m'.byteAt (k + 2))
    (h3 : m.byteAt (k + 3) = m'.byteAt (k + 3)) : be32u m k = be32u m' k := by
  unfold be32u; rw [h0, h1, h2, h3]

/-- What a read primitive can answer: its value, when all its bytes lie inside the space; else a refusal. -/
theorem readPrimitive_eq (S : Space) (k n : Nat) (v : Memory → OpResult) (s : State) :
    readPrimitive S k n v s = if (s.space S).memRead k n = none then .refused .readOutsideSpace
      else .next (returnValue (v (s.space S)) s) := by
  unfold readPrimitive
  by_cases h : k + n ≤ (s.space S).size
  · rw [if_pos h, if_neg (by rw [memRead_eq_none_iff]; omega)]
  · rw [if_neg h, if_pos (by rw [memRead_eq_none_iff]; omega)]

/-- A read primitive that answers a next state returned its value and did nothing else. -/
theorem readPrimitive_next {S : Space} {k n : Nat} {v : Memory → OpResult} {s t : State}
    (h : readPrimitive S k n v s = .next t) : t = returnValue (v (s.space S)) s := by
  unfold readPrimitive at h
  split at h
  · exact (Host.Outcome.next.inj h).symm
  · cases h

@[simp] theorem space_returnValue (v : OpResult) (s : State) (S : Space) :
    (returnValue v s).space S = s.space S := by cases S <;> rfl

end Sys2Proof.Machine
end

