-- ==== Sys2Proof/Laws/Operands.lean ====
section
/-! SUPPORT. Operand assembly as arithmetic. -/

namespace Sys2Proof.Machine

open Sys2Proof

/-- `BITS` is the field `b[lsb+w-1 : lsb]` (R10, R119). -/
theorem bits_eq (b : Byte) (lsb w : Nat) : bits b lsb w = b.toNat / 2 ^ lsb % 2 ^ w := by
  unfold bits
  rw [Nat.shiftRight_eq_div_pow, Nat.one_shiftLeft, Nat.and_two_pow_sub_one_eq_mod]

theorem scale_zero_bias (raw : Int) (sc : Rat) : scale raw sc 0 = raw * sc := by simp [scale]

theorem scaledBe16_eq (m : Memory) (k : Nat) (sc : Rat) : scaledBe16 m k sc = ((be16u m k).toNat : Rat) * sc := by
  simp [scaledBe16, scale]

theorem scaledBe32_eq (m : Memory) (k : Nat) (sc : Rat) : scaledBe32 m k sc = ((be32u m k).toNat : Rat) * sc := by
  simp [scaledBe32, scale]

theorem scaledLe16_eq (m : Memory) (k : Nat) (sc : Rat) : scaledLe16 m k sc = ((le16u m k).toNat : Rat) * sc := by
  simp [scaledLe16, scale]

theorem scaledLe32_eq (m : Memory) (k : Nat) (sc : Rat) : scaledLe32 m k sc = ((le32u m k).toNat : Rat) * sc := by
  simp [scaledLe32, scale]

theorem scaledLe16s_eq (m : Memory) (k : Nat) (sc bias : Rat) :
    scaledLe16s m k sc bias = (le16s m k : Rat) * sc + bias := rfl

theorem flagBit_iff (l : StLayout) (m : Memory) (f : SubField) : flagBit l m f = true ↔ subField l m f 1 = 1 := by
  simp [flagBit]

theorem nibble_val (l : StLayout) (m : Memory) (f : SubField) : (nibble l m f).val = subField l m f 4 := rfl

end Sys2Proof.Machine
end

