-- ==== Sys2Proof/Laws/PerInstr.lean ====
section
/-! SUPPORT. Facts about every operation as syntax, one lemma per constructor. -/

/-- Family `EncodedShape`: the serialised form has the shape R97 gives its unit, and only an operation that a
transaction selects has one (R84). -/
def Sys2Proof.Laws.EncodedShape.Statement (i : Sys2Proof.Instr) : Prop :=
  ∀ (ids : Sys2Proof.Ids) (u : Sys2Proof.TxUnit) (bytes : List Sys2Proof.Byte),
    Sys2Proof.encode ids i = some (u, bytes) →
    (u = .DBC → bytes.length = 13) ∧ (u = .BMS → 2 ≤ bytes.length)

namespace Sys2Proof.Laws.EncodedShape

open Sys2Proof

/-- The shape of a serialised transaction. -/
theorem of_serialise (t : Transaction) (u : TxUnit) (bytes : List Byte) (h : serialise t = (u, bytes)) :
    (u = .DBC → bytes.length = 13) ∧ (u = .BMS → 2 ≤ bytes.length) := by
  cases t with
  | bms length buf =>
    obtain ⟨rfl, rfl⟩ := Prod.mk.inj h
    simp
  | dbc id dlc pay =>
    obtain ⟨rfl, rfl⟩ := Prod.mk.inj h
    simp [Machine.payBytes]

theorem bmsDecode (length : Nat) (buf : List Byte) : Statement (.bmsDecode length buf) :=
  fun _ u bytes h => of_serialise _ u bytes (Option.some.inj h)
theorem dbcDecode (id : Word) (dlc : Nat) (pay : Pay) : Statement (.dbcDecode id dlc pay) :=
  fun _ u bytes h => of_serialise _ u bytes (Option.some.inj h)
theorem dbc18a (dlc : Nat) (pay : Pay) : Statement (.dbc18a dlc pay) :=
  fun _ u bytes h => of_serialise _ u bytes (Option.some.inj h)
theorem dbc28a (dlc : Nat) (pay : Pay) : Statement (.dbc28a dlc pay) :=
  fun _ u bytes h => of_serialise _ u bytes (Option.some.inj h)
theorem dbc38a (dlc : Nat) (pay : Pay) : Statement (.dbc38a dlc pay) :=
  fun _ u bytes h => of_serialise _ u bytes (Option.some.inj h)
theorem dbc20a (dlc : Nat) (pay : Pay) : Statement (.dbc20a dlc pay) :=
  fun _ u bytes h => of_serialise _ u bytes (Option.some.inj h)
theorem dbc30a (dlc : Nat) (pay : Pay) : Statement (.dbc30a dlc pay) :=
  fun _ u bytes h => of_serialise _ u bytes (Option.some.inj h)
theorem dbcNodeCmd (dlc : Nat) (pay : Pay) : Statement (.dbcNodeCmd dlc pay) :=
  fun _ u bytes h => of_serialise _ u bytes (Option.some.inj h)
theorem dbcHbA (dlc : Nat) (pay : Pay) : Statement (.dbcHbA dlc pay) :=
  fun _ u bytes h => of_serialise _ u bytes (Option.some.inj h)
theorem dbcHbB (dlc : Nat) (pay : Pay) : Statement (.dbcHbB dlc pay) :=
  fun _ u bytes h => of_serialise _ u bytes (Option.some.inj h)
theorem dbcM9 (dlc : Nat) (pay : Pay) : Statement (.dbcM9 dlc pay) :=
  fun _ u bytes h => of_serialise _ u bytes (Option.some.inj h)
theorem be16u (S : Space) (k : Nat) : Statement (.be16u S k) := fun _ _ _ h => nomatch h
theorem be32u (S : Space) (k : Nat) : Statement (.be32u S k) := fun _ _ _ h => nomatch h
theorem le16u (S : Space) (k : Nat) : Statement (.le16u S k) := fun _ _ _ h => nomatch h
theorem le16s (S : Space) (k : Nat) : Statement (.le16s S k) := fun _ _ _ h => nomatch h
theorem le32u (S : Space) (k : Nat) : Statement (.le32u S k) := fun _ _ _ h => nomatch h
theorem u8 (S : Space) (k : Nat) : Statement (.u8 S k) := fun _ _ _ h => nomatch h
theorem bits (b : Byte) (lsb w : Nat) : Statement (.bits b lsb w) := fun _ _ _ h => nomatch h
theorem scale (raw : Int) (sc bias : Rat) : Statement (.scale raw sc bias) := fun _ _ _ h => nomatch h
theorem statusText (rom : StatusRom) (code : Byte) : Statement (.statusText rom code) := fun _ _ _ h => nomatch h
theorem errText (code : Word) : Statement (.errText code) := fun _ _ _ h => nomatch h
theorem enum1Text (code : Fin 16) : Statement (.enum1Text code) := fun _ _ _ h => nomatch h
theorem cycleText (code : Fin 3) : Statement (.cycleText code) := fun _ _ _ h => nomatch h
theorem cycleClamp (n : Fin 16) : Statement (.cycleClamp n) := fun _ _ _ h => nomatch h

end Sys2Proof.Laws.EncodedShape
end

