-- ==== Sys2Proof/Laws/Units.lean ====
section
/-! SUPPORT. What a transaction of each unit, an operation and a step can do, said once each. -/

namespace Sys2Proof.Machine

open Sys2Proof

/-- A BMS transaction in full: refused, or ended at the BMS unit's ports. -/
theorem execBmsDecode_eq (length : Nat) (buf : List Byte) (s : State) :
    execBmsDecode length buf s =
      if 121 ≤ length ∧ buf.length < 121 then .refused .readOutsideSpace
      else .next (endBms (bmsResult s.board.data length (Memory.ofBytes buf)) (presentBms length buf s)) := by
  have e : bmsReadsOutside length (Memory.ofBytes buf) = true ↔ 121 ≤ length ∧ buf.length < 121 := by
    rw [bmsReadsOutside, Bool.and_eq_true, decide_eq_true_eq, decide_eq_true_eq, size_ofBytes]
  simp only [execBmsDecode, presentBms_length, presentBms_buf, presentBms_board, e]

/-- A DBC transaction of a message in full. -/
theorem runMessage_eq (k : MsgKind) (dlc : Nat) (pay : Pay) (s : State) :
    runMessage k dlc pay s =
      .next (endDbc (gated s.board.data k dlc (Memory.ofPay pay)) (presentDbc (k.id s.board.data.ids) dlc pay s)) := rfl

/-- A DBC transaction in full. -/
theorem execDbcDecode_eq (id : Word) (dlc : Nat) (pay : Pay) (s : State) :
    execDbcDecode id dlc pay s =
      .next (endDbc (dbcResult s.board.data id dlc (Memory.ofPay pay)) (presentDbc id dlc pay s)) := rfl

/-- The decoder of a message is that message's transaction. -/
theorem exec_decoderFor (k : MsgKind) (dlc : Nat) (pay : Pay) (s : State) :
    exec (decoderFor k dlc pay) s = runMessage k dlc pay s := by cases k <;> rfl

theorem gated_short (c : Config) (k : MsgKind) (dlc : Nat) (m : Memory) (h : dlc < k.minDlc) :
    gated c k dlc m = .error .E_DBC_SHORT := if_pos h

theorem gated_enough (c : Config) (k : MsgKind) (dlc : Nat) (m : Memory) (h : k.minDlc ≤ dlc) :
    gated c k dlc m = .ok (extract c k m) := if_neg (by omega)

@[simp] theorem tag_extract (c : Config) (k : MsgKind) (m : Memory) : (extract c k m).tag = tagOf k := by
  cases k <;> rfl

theorem tagOf_ne_none (k : MsgKind) : tagOf k ≠ .NONE := by cases k <;> simp [tagOf]

/-- What a recognised identifier is. -/
theorem id_of_recognise (ids : Ids) (id : Word) (k : MsgKind) (h : recognise ids id = some k) :
    k.id ids = id := by
  unfold recognise at h
  repeat' split at h
  all_goals first
    | (obtain rfl := Option.some.inj h; exact Eq.symm ‹_›)
    | cases h

/-- A host that keeps R276 always presents a transaction with a result. -/
theorem hasResult_of_truthful (length : Nat) (buf : List Byte) (h : length ≤ buf.length) :
    hasResult (.bms length buf) = true := by
  rw [hasResult, decide_eq_true_eq]; omega

/-- Nothing presented: nothing happens. -/
theorem step_idle (s : State) (h : s.pending = []) : step s = .next s := by
  simp [step, fetch, h]

/-- A step runs the operation its transaction selects. -/
theorem step_cons (s : State) (t : Transaction) (rest : List Transaction) (h : s.pending = t :: rest) :
    step s = exec (select s.board.data.ids t) { s with pending := rest } := by
  simp [step, fetch, h]

/-- Every operation's next state: a value returned, or a transaction of one unit presented and ended. -/
theorem exec_next_cases (i : Instr) (s t : State) (h : exec i s = .next t) :
    (∃ v, t = returnValue v s) ∨
    (∃ length buf, i = .bmsDecode length buf ∧ ¬ (121 ≤ length ∧ buf.length < 121) ∧
      t = endBms (bmsResult s.board.data length (Memory.ofBytes buf)) (presentBms length buf s)) ∨
    (∃ id dlc pay r, t = endDbc r (presentDbc id dlc pay s)) := by
  cases i with
  | bmsDecode length buf =>
    rw [exec, execBmsDecode_eq] at h
    split at h
    · cases h
    · next hc => exact .inr (.inl ⟨length, buf, rfl, hc, (Host.Outcome.next.inj h).symm⟩)
  | dbcDecode id dlc pay => exact .inr (.inr ⟨_, _, _, _, (Host.Outcome.next.inj h).symm⟩)
  | dbc18a dlc pay => exact .inr (.inr ⟨_, _, _, _, (Host.Outcome.next.inj h).symm⟩)
  | dbc28a dlc pay => exact .inr (.inr ⟨_, _, _, _, (Host.Outcome.next.inj h).symm⟩)
  | dbc38a dlc pay => exact .inr (.inr ⟨_, _, _, _, (Host.Outcome.next.inj h).symm⟩)
  | dbc20a dlc pay => exact .inr (.inr ⟨_, _, _, _, (Host.Outcome.next.inj h).symm⟩)
  | dbc30a dlc pay => exact .inr (.inr ⟨_, _, _, _, (Host.Outcome.next.inj h).symm⟩)
  | dbcNodeCmd dlc pay => exact .inr (.inr ⟨_, _, _, _, (Host.Outcome.next.inj h).symm⟩)
  | dbcHbA dlc pay => exact .inr (.inr ⟨_, _, _, _, (Host.Outcome.next.inj h).symm⟩)
  | dbcHbB dlc pay => exact .inr (.inr ⟨_, _, _, _, (Host.Outcome.next.inj h).symm⟩)
  | dbcM9 dlc pay => exact .inr (.inr ⟨_, _, _, _, (Host.Outcome.next.inj h).symm⟩)
  | be16u S k =>
    rw [exec, execBe16u] at h
    exact .inl ⟨_, readPrimitive_next h⟩
  | be32u S k =>
    rw [exec, execBe32u] at h
    exact .inl ⟨_, readPrimitive_next h⟩
  | le16u S k =>
    rw [exec, execLe16u] at h
    exact .inl ⟨_, readPrimitive_next h⟩
  | le16s S k =>
    rw [exec, execLe16s] at h
    exact .inl ⟨_, readPrimitive_next h⟩
  | le32u S k =>
    rw [exec, execLe32u] at h
    exact .inl ⟨_, readPrimitive_next h⟩
  | u8 S k =>
    rw [exec, execU8] at h
    exact .inl ⟨_, readPrimitive_next h⟩
  | bits b lsb w =>
    simp only [exec, execBits] at h
    split at h
    · exact .inl ⟨_, (Host.Outcome.next.inj h).symm⟩
    · cases h
  | scale raw sc bias => exact .inl ⟨_, (Host.Outcome.next.inj h).symm⟩
  | statusText rom code => exact .inl ⟨_, (Host.Outcome.next.inj h).symm⟩
  | errText code => exact .inl ⟨_, (Host.Outcome.next.inj h).symm⟩
  | enum1Text code => exact .inl ⟨_, (Host.Outcome.next.inj h).symm⟩
  | cycleText code => exact .inl ⟨_, (Host.Outcome.next.inj h).symm⟩
  | cycleClamp n => exact .inl ⟨_, (Host.Outcome.next.inj h).symm⟩

end Sys2Proof.Machine
end

