-- ==== Sys2Proof/Tests/Slice0.lean ====
section
/-! SUPPORT. The model's own tests. Expected values are the spec's: spec/95_test_vectors.md (the id stands in each
comment) or the rule named. The configuration is the smoke-test instance of
spec/93_implementation_defined.md G1 and G3, which is not the source's. -/

namespace Sys2Proof.Tests

open Sys2Proof Sys2Proof.Machine

/-! ### The smoke-test instance -/

/-- Identifiers of G3. -/
def ids3 : Ids := ⟨0x000, 0x70A, 0x701, 0x48A⟩

def romOnOff : List (Byte × Text) := [(0, ['O', 'f', 'f']), (1, ['O', 'n'])]

/-- G1 and G3, with one entry in each enumeration ROM so that their entries can be witnessed. -/
def config3 : Config where
  bms := ⟨70, 74, 91, 93, 95, 75, 79, 83, 103, 104, 105, 115, 116, 118, 119⟩
  dbc := ⟨0, 2, 0, 2, 6, 0, 4, 0, 2⟩
  st := ⟨4, 5, ⟨.A, 0⟩, ⟨.A, 1⟩, ⟨.A, 2⟩, ⟨.A, 3⟩, ⟨.A, 4⟩, ⟨.B, 0⟩, ⟨.B, 4⟩⟩
  ids := ids3
  roms := ⟨romOnOff, romOnOff, romOnOff, [(394301440, ['E'])], [(9, ['n'])], [(2, ['t'])]⟩

def board3 : Board := ⟨config3, by decide⟩

/-- A state with that configuration and these transactions to run. -/
def start (ts : List Transaction) : State := { State.reset with board := board3, pending := ts }

/-- A state with these bytes in its two spaces. -/
def holding (buf : List Byte) (p : Pay) : State :=
  { start [] with buf := Memory.ofBytes buf, pay := Memory.ofPay p }

def zeroPay : Pay := ⟨0, 0, 0, 0, 0, 0, 0, 0⟩

def payP : Pay := ⟨0x80, 0x0C, 0x00, 0x3A, 0x15, 0x52, 0x00, 0x00⟩

/-- The next state of an outcome. -/
def nextOf : Out → Option State
  | .next s => some s
  | .fault _ => none
  | .refused _ => none

def valueOf (o : Out) : Option OpResult := (nextOf o).map State.opResult
def recordOf (o : Out) : Option BmsRecord := (nextOf o).map State.bmsRec
def outOf (o : Out) : Option (Bool × Container) := (nextOf o).map fun s => (s.success, s.out)

/-- The 121 bytes of vector M9. -/
def frameHead : List Byte := [0xAA, 0x55, 0xAA, 0xFF, 0x02, 0x9E]
def cellsOf (n : Nat) : List Byte := (List.replicate n [(0x0D : Byte), 0x16]).flatten
def frameMid : List Byte :=
  [0x00, 0x7B, 0x00, 0x00, 0x55, 0x05, 0xF5, 0xE1, 0x00, 0x05, 0x10, 0xFF, 0x40, 0x49, 0x96, 0x02, 0xD2, 0, 0, 0, 0]
def frameTail : List Byte :=
  [0x00, 0x19, 0x00, 0x1A, 0x00, 0x17, 0x00, 0x18, 0xFF, 0xFB, 0x00, 0x00, 0x01, 0x01, 0xEE]
def frameX : List Byte :=
  frameHead ++ cellsOf 4 ++ [0x0D, 0x48] ++ cellsOf 7 ++ [0x0C, 0xE4] ++ cellsOf 7 ++ List.replicate 24 0
    ++ frameMid ++ frameTail ++ List.replicate 9 0 ++ [0x05, 0x0D, 0x48, 0x0D, 0x0C, 0xE4]

/-! ### Ill-formed terms, one for each check -/

theorem test_wf_be16u : (Instr.be16u .PAY 7).wellFormed = false := by decide
theorem test_wf_be32u : (Instr.be32u .PAY 5).wellFormed = false := by decide
theorem test_wf_le16u : (Instr.le16u .PAY 7).wellFormed = false := by decide
theorem test_wf_le16s : (Instr.le16s .PAY 8).wellFormed = false := by decide
theorem test_wf_le32u : (Instr.le32u .PAY 5).wellFormed = false := by decide
theorem test_wf_u8 : (Instr.u8 .PAY 8).wellFormed = false := by decide
theorem test_wf_bits : (Instr.bits 0xA5 5 4).wellFormed = false := by decide
theorem test_serialisable_length : (Instr.bmsDecode 65536 []).serialisable = false := by decide
theorem test_serialisable_dlc :
    (MsgKind.all.map fun k => (decoderFor k 256 zeroPay).serialisable) = List.replicate 9 false := by decide
theorem test_serialisable_dispatch_dlc : (Instr.dbcDecode 0xFFF 256 zeroPay).serialisable = false := by decide
theorem test_serialisable_internal : (Instr.cycleClamp 5).serialisable = false := by decide
theorem test_selectable_known_id : (Instr.dbcDecode 0x18A 8 zeroPay).selectable ids3 = false := by decide

/-- U11: a configuration that breaks one constraint is turned away. -/
theorem test_config_bms_past_120 : { config3.bms with CELL_LO_V_OFF := 120 }.wf = false := by decide
theorem test_config_dbc_past_7 : { config3.dbc with M28A_AH_OFF := 5 }.wf = false := by decide
theorem test_config_st_overlap : { config3.st with FD := ⟨.A, 2⟩ }.wf = false := by decide
theorem test_config_st_crosses_byte : { config3.st with OV := ⟨.A, 7⟩ }.wf = false := by decide
theorem test_config_st_one_byte_twice : { config3.st with ST_B_OFF := 4 }.wf = false := by decide
theorem test_config_st_nibbles_apart : { config3.st with N2 := ⟨.A, 4⟩, OV := ⟨.B, 4⟩ }.wf = false := by decide
theorem test_config_ids_repeated : { ids3 with ID_M9 := 0x18A }.wf = false := by decide
theorem test_config_ids_fff : { ids3 with ID_M9 := 0xFFF }.wf = false := by decide
theorem test_config_err_key_missing : { config3.roms with ERR_ROM := [] }.wf = false := by decide
theorem test_config_err_key_one : { config3.roms with ERR_ROM := [(1, []), (394301440, [])] }.wf = false := by decide
theorem test_config_rom_order : { config3.roms with BAL_ROM := [(1, []), (0, [])] }.wf = false := by decide

/-! ### Decoding: bytes written out from R84 and R97 -/

theorem test_decode_bms : decode ids3 .BMS [0x00, 0x79, 0xDE, 0xAD] = .ok (.bmsDecode 121 [0xDE, 0xAD]) := by rfl
/-- P1 step 3. -/
theorem test_decode_unknown_id : decode ids3 .DBC [0x00, 0x00, 0x0F, 0xFF, 0x08, 0, 0, 0x80, 0x0C, 0, 0x3A, 0x40, 0x01] =
    .ok (.dbcDecode 0xFFF 8 ⟨0, 0, 0x80, 0x0C, 0, 0x3A, 0x40, 0x01⟩) := by rfl
/-- X5: no bit of the identifier is masked off. -/
theorem test_decode_id_bit_31 : decode ids3 .DBC [0x80, 0x00, 0x03, 0x0A, 0x08, 0, 0, 0, 0, 0, 0, 0, 0] =
    .ok (.dbcDecode 0x8000030A 8 zeroPay) := by rfl
/-- S8-b. -/
theorem test_decode_18a : decode ids3 .DBC [0x00, 0x00, 0x01, 0x8A, 0x08, 0x80, 0x0C, 0x00, 0x3A, 0x15, 0x52, 0x00, 0x00] =
    .ok (.dbc18a 8 payP) := by rfl
/-- P3 step 6. -/
theorem test_decode_28a : decode ids3 .DBC [0x00, 0x00, 0x02, 0x8A, 0x08, 0x68, 0x01, 0x39, 0x30, 0x00, 0x00, 0xD2, 0x04] =
    .ok (.dbc28a 8 ⟨0x68, 0x01, 0x39, 0x30, 0x00, 0x00, 0xD2, 0x04⟩) := by rfl
/-- S5-c. -/
theorem test_decode_38a : decode ids3 .DBC [0x00, 0x00, 0x03, 0x8A, 0x08, 0x00, 0x90, 0x80, 0x17, 0x30, 0x0E, 0x00, 0x00] =
    .ok (.dbc38a 8 ⟨0x00, 0x90, 0x80, 0x17, 0x30, 0x0E, 0x00, 0x00⟩) := by rfl
/-- P3 step 4. -/
theorem test_decode_20a : decode ids3 .DBC [0x00, 0x00, 0x02, 0x0A, 0x08, 0x00, 0x3A, 0xA0, 0x00, 0, 0, 0, 0] =
    .ok (.dbc20a 8 ⟨0x00, 0x3A, 0xA0, 0x00, 0, 0, 0, 0⟩) := by rfl
/-- S4. -/
theorem test_decode_30a : decode ids3 .DBC [0x00, 0x00, 0x03, 0x0A, 0x08, 0x00, 0x00, 0x00, 0x01, 0x00, 0x01, 0x00, 0x01] =
    .ok (.dbc30a 8 ⟨0, 0, 0, 1, 0, 1, 0, 1⟩) := by rfl
/-- P3 step 1. -/
theorem test_decode_node_cmd : decode ids3 .DBC [0x00, 0x00, 0x00, 0x00, 0x02, 0x01, 0x0A, 0, 0, 0, 0, 0, 0] =
    .ok (.dbcNodeCmd 2 ⟨0x01, 0x0A, 0, 0, 0, 0, 0, 0⟩) := by rfl
/-- P3 step 2. -/
theorem test_decode_hb_a : decode ids3 .DBC [0x00, 0x00, 0x07, 0x0A, 0x01, 0x05, 0, 0, 0, 0, 0, 0, 0] =
    .ok (.dbcHbA 1 ⟨0x05, 0, 0, 0, 0, 0, 0, 0⟩) := by rfl
/-- P3 step 3. -/
theorem test_decode_hb_b : decode ids3 .DBC [0x00, 0x00, 0x07, 0x01, 0x00, 0x05, 0, 0, 0, 0, 0, 0, 0] =
    .ok (.dbcHbB 0 ⟨0x05, 0, 0, 0, 0, 0, 0, 0⟩) := by rfl
/-- P3 step 9. -/
theorem test_decode_m9 : decode ids3 .DBC [0x00, 0x00, 0x04, 0x8A, 0x08, 1, 2, 3, 4, 5, 6, 7, 8] =
    .ok (.dbcM9 8 ⟨1, 2, 3, 4, 5, 6, 7, 8⟩) := by rfl
theorem test_decode_bms_no_length : decode ids3 .BMS [0x00] = .error .bmsLengthMissing := by rfl
theorem test_decode_dbc_12_bytes : decode ids3 .DBC (List.replicate 12 0) = .error .dbcNotThirteenBytes := by rfl

/-- The five rows of spec/opcode_table.json with bits, as that table numbers them. -/
theorem test_table_words : [394, 650, 906, 522, 778].map (decodeTableWord 32) =
    [some (.dbc18a 0 zeroPay), some (.dbc28a 0 zeroPay), some (.dbc38a 0 zeroPay), some (.dbc20a 0 zeroPay),
      some (.dbc30a 0 zeroPay)] := by rfl
/-- A placed table word runs in the very next step: `dlc` is 0 there, so the message is short (R185). -/
theorem test_table_word_runs : (nextOf (step (State.reset.withFetchWord 32 778))).map (fun s => (s.id, s.dbcEnding)) =
    some (0x30A, .failed .E_DBC_SHORT) := by rfl

/-! ### Byte assembly -/

/-- A6, A4. -/
theorem test_be16u : valueOf (exec (.be16u .BUF 1) (holding [0, 0x12, 0x34] zeroPay)) = some (.int 4660) := by decide
theorem test_be16u_unsigned : valueOf (exec (.be16u .BUF 0) (holding [0x80, 0x00] zeroPay)) = some (.int 32768) := by
  decide
/-- A10, A8. -/
theorem test_be32u : valueOf (exec (.be32u .BUF 0) (holding [0x12, 0x34, 0x56, 0x78] zeroPay)) =
    some (.int 305419896) := by decide
theorem test_be32u_unsigned : valueOf (exec (.be32u .BUF 0) (holding [0x80, 0, 0, 0] zeroPay)) =
    some (.int 2147483648) := by decide
/-- A13; R58 at the end of the payload. -/
theorem test_le16u : valueOf (exec (.le16u .PAY 6) (holding [] ⟨0, 0, 0, 0, 0, 0, 0x34, 0x12⟩)) = some (.int 4660) := by
  decide
theorem test_le16u_past_end : exec (.le16u .PAY 7) (holding [] zeroPay) = .refused .readOutsideSpace := by rfl
/-- A15, A18. -/
theorem test_le16s_least : valueOf (exec (.le16s .PAY 0) (holding [] ⟨0x00, 0x80, 0, 0, 0, 0, 0, 0⟩)) =
    some (.int (-32768)) := by decide
theorem test_le16s : valueOf (exec (.le16s .PAY 0) (holding [] ⟨0xFE, 0xFF, 0, 0, 0, 0, 0, 0⟩)) = some (.int (-2)) := by
  decide
/-- A20, A19. -/
theorem test_le32u : valueOf (exec (.le32u .PAY 4) (holding [] ⟨0, 0, 0, 0, 0x78, 0x56, 0x34, 0x12⟩)) =
    some (.int 305419896) := by decide
theorem test_le32u_error_code : valueOf (exec (.le32u .PAY 0) (holding [] ⟨0x00, 0x90, 0x80, 0x17, 0, 0, 0, 0⟩)) =
    some (.int 394301440) := by decide
/-- A24; R58. -/
theorem test_u8 : valueOf (exec (.u8 .PAY 7) (holding [] ⟨0, 0, 0, 0, 0, 0, 0, 0xFF⟩)) = some (.int 255) := by decide
theorem test_u8_empty_buffer : exec (.u8 .BUF 0) (holding [] zeroPay) = .refused .readOutsideSpace := by rfl

/-! ### Bits and scaling -/

/-- B7, B11. -/
theorem test_bits : valueOf (exec (.bits 0x80 6 2) (start [])) = some (.int 2) := by decide
theorem test_bits_whole_byte : valueOf (exec (.bits 0x3C 0 8) (start [])) = some (.int 60) := by decide
/-- C11, C5. -/
theorem test_scale_bias : valueOf (exec (.scale 1 (1 / 8) (-40)) (start [])) = some (.rat (-319 / 8)) := by
  decide +kernel
theorem test_scale_micro : valueOf (exec (.scale 4294967295 (1 / 1000000) 0) (start [])) =
    some (.rat (4294967295 / 1000000)) := by decide +kernel

/-! ### Look-up tables -/

/-- L3. -/
theorem test_status_text_entry : valueOf (exec (.statusText .DSG_MOS_ROM 1) (start [])) = some (.text ['O', 'n']) := by
  decide
theorem test_status_text_unknown : valueOf (exec (.statusText .BAL_ROM 255) (start [])) =
    some (.text ['U', 'n', 'k', 'n', 'o', 'w', 'n']) := by decide
/-- L4, L5. -/
theorem test_err_text_entry : valueOf (exec (.errText 394301440) (start [])) = some (.text ['E']) := by decide
theorem test_err_text_fallback : valueOf (exec (.errText 1) (start [])) =
    some (.text (Config.errFallbackBefore 1 ++ ['1'] ++ Config.errFallbackAfter 1)) := by rfl
/-- R140. -/
theorem test_enum1_text : valueOf (exec (.enum1Text 9) (start [])) = some (.text ['n']) := by decide
theorem test_enum1_text_unknown : valueOf (exec (.enum1Text 15) (start [])) = some (.text unknownText) := by decide
theorem test_cycle_text : valueOf (exec (.cycleText 2) (start [])) = some (.text ['t']) := by decide
theorem test_cycle_text_unknown : valueOf (exec (.cycleText 0) (start [])) = some (.text unknownText) := by decide
/-- L8: it does not saturate. -/
theorem test_cycle_clamp : valueOf (exec (.cycleClamp 2) (start [])) = some (.int 2) := by decide
theorem test_cycle_clamp_above : valueOf (exec (.cycleClamp 3) (start [])) = some (.int 0) := by decide

/-! ### The BMS unit -/

/-- M9. -/
theorem test_bms_frame : (recordOf (exec (.bmsDecode 121 frameX) (start []))).map
    (fun r => ([r.pack_voltage_V, r.pack_current, r.cell_voltages[12], r.cap_cyclic, r.cell_lo_V],
      r.temp_ext_raw[2], r.bal_text)) =
    some (([67, 123 / 10, 33 / 10, 123456789 / 100000, 33 / 10] : List Rat), (65531 : Half),
      ['U', 'n', 'k', 'n', 'o', 'w', 'n']) := by
  decide +kernel
/-- P2 step 1. -/
theorem test_bms_short : (recordOf (exec (.bmsDecode 120 frameX) (start []))) = some (defaultRecord config3.roms) := by
  decide +kernel

/-! ### The DBC unit -/

/-- X7: the identifier is examined first (R248); X4. -/
theorem test_dbc_unknown_and_short : (nextOf (exec (.dbcDecode 0xFFF 0 zeroPay) (start []))).map State.dbcEnding =
    some (.failed .E_DBC_UNKNOWN_ID) := by decide
theorem test_dbc_large_dlc : (outOf (exec (.dbcDecode 0x20A 1000 payP) (start []))) =
    some (true, .M20A ⟨25 / 2, 928⟩) := by decide +kernel
/-- V18A-1, V18A-5. -/
theorem test_18a : outOf (exec (.dbc18a 8 payP) (start [])) =
    some (true, .M18A ⟨25 / 2, 58, true, false, true, false, true, 2, 0⟩) := by decide +kernel
theorem test_18a_override : outOf (exec (.dbc18a 8 ⟨0, 0, 0, 0, 0x20, 0x31, 0, 0⟩) (start [])) =
    some (true, .M18A ⟨0, 0, false, false, false, false, true, 1, 0⟩) := by decide +kernel
/-- V28A-4, V28A-5. -/
theorem test_28a : outOf (exec (.dbc28a 8 ⟨0x68, 0x01, 0x39, 0x30, 0, 0, 0xD2, 0x04⟩) (start [])) =
    some (true, .M28A ⟨3600, 12345 / 8, 617 / 8⟩) := by decide +kernel
theorem test_28a_unsigned : outOf (exec (.dbc28a 8 ⟨0, 0, 0, 0, 0, 0x80, 0, 0⟩) (start [])) =
    some (true, .M28A ⟨0, 268435456, 0⟩) := by decide +kernel
/-- V38A-1; P4 step 3. -/
theorem test_38a : outOf (exec (.dbc38a 8 ⟨0x00, 0x90, 0x80, 0x17, 0x30, 0x0E, 0, 0⟩) (start [])) =
    some (true, .M38A ⟨394301440, ['E'], 227⟩) := by decide +kernel
theorem test_38a_code_kept : (nextOf (exec (.dbc38a 8 payP) (start []))).map
    (fun s => match s.out with | .M38A b => b.current_error | _ => 0) = some 973081728 := by decide +kernel
/-- V20A-1; X12. -/
theorem test_20a : outOf (exec (.dbc20a 8 ⟨0x00, 0x3A, 0xA0, 0, 0, 0, 0, 0⟩) (start [])) =
    some (true, .M20A ⟨58, 10⟩) := by decide +kernel
theorem test_20a_short : outOf (exec (.dbc20a 7 payP) (start [])) = some (false, .NONE) := by decide +kernel
/-- V30A-8, V30A-6. -/
theorem test_30a : outOf (exec (.dbc30a 8 ⟨0, 0, 1, 0, 2, 0, 3, 0⟩) (start [])) =
    some (true, .M30A ⟨1 / 256, 1 / 128, -317 / 8⟩) := by decide +kernel
theorem test_30a_signed : outOf (exec (.dbc30a 8 ⟨0, 0, 0, 0, 0, 0, 0, 0x80⟩) (start [])) =
    some (true, .M30A ⟨0, 0, -4136⟩) := by decide +kernel
/-- VN-2, VN-3. -/
theorem test_node_cmd : outOf (exec (.dbcNodeCmd 8 ⟨0x81, 0, 0xFF, 0xFF, 0xFF, 0xFF, 0xFF, 0xFF⟩) (start [])) =
    some (true, .NODE_CMD ⟨129, 0⟩) := by decide +kernel
theorem test_node_cmd_short : outOf (exec (.dbcNodeCmd 1 payP) (start [])) = some (false, .NONE) := by decide +kernel
/-- VH-4, VH-3. -/
theorem test_hb_a : outOf (exec (.dbcHbA 1 ⟨5, 0xFF, 0xFF, 0xFF, 0xFF, 0xFF, 0xFF, 0xFF⟩) (start [])) =
    some (true, .HB_A ⟨5⟩) := by decide +kernel
theorem test_hb_a_short : outOf (exec (.dbcHbA 0 payP) (start [])) = some (false, .NONE) := by decide +kernel
/-- VH-2, X10. -/
theorem test_hb_b : outOf (exec (.dbcHbB 1 ⟨0x7F, 0, 0, 0, 0, 0, 0, 0⟩) (start [])) = some (true, .HB_B ⟨127⟩) := by
  decide +kernel
theorem test_hb_b_short : outOf (exec (.dbcHbB 0 payP) (start [])) = some (false, .NONE) := by decide +kernel
/-- V9-1, X11. -/
theorem test_m9 : outOf (exec (.dbcM9 8 payP) (start [])) = some (true, .M9 (Config.decM9 config3.roms payP)) := by rfl
theorem test_m9_short : outOf (exec (.dbcM9 7 payP) (start [])) = some (false, .NONE) := by decide +kernel

/-- R34: the outputs are readable after a unit's first transaction, and the other unit's still are not. -/
theorem test_readable : ((nextOf (step (start [.dbc 0xFFF 8 zeroPay]))).map State.readDbc,
    (nextOf (step (start [.dbc 0xFFF 8 zeroPay]))).map State.readBms) = (some (some (false, .NONE)), some none) := by
  decide +kernel

/-! ### Witnesses: a concrete state and operands that meet the hypotheses of each statement -/

theorem start_inv (ts : List Transaction) : (start ts).Inv where
  buf_wf := rfl
  pay_wf := rfl
  pay_size := rfl
  success_tag := by simp [start, State.reset, Container.tag]
  bms_outputs := .inl rfl
  dbc_outputs := .inl rfl

theorem unknown_fff (k : MsgKind) : k.id (start []).board.data.ids ≠ 0xFFF := by cases k <;> decide

/-- DecodeOfEncodeIsTheOperation, at the largest values of the length fields. -/
theorem witness_selectable : (Instr.bmsDecode 65535 [1]).selectable board3.data.ids = true ∧
    (Instr.dbcM9 255 payP).selectable board3.data.ids = true ∧
    (Instr.dbcDecode 0xFFFFFFFF 255 payP).selectable board3.data.ids = true := by decide

/-- EncodeOfDecodeIsTheBytes. -/
theorem witness_decode : decode board3.data.ids .BMS [0xFF, 0xFF] = .ok (.bmsDecode 65535 []) := by rfl

/-- IdentifierNamesMessageOnlyByAllItsBits, each side. -/
theorem witness_recognise : recognise board3.data.ids 0x48A = some .M9 ∧ recognise board3.data.ids 0x8000048A = none := by
  decide

/-- StepRunsTheSelectedOperation, each clause. -/
theorem witness_step :
    (start [.dbc 0x30A 8 zeroPay]).pending = .dbc 0x30A 8 zeroPay :: [] ∧
    parse .DBC [0x00, 0x00, 0x03, 0x0A, 0x08, 0, 0, 0, 0, 0, 0, 0, 0] = .ok (.dbc 0x30A 8 zeroPay) ∧
    decode (start [.dbc 0x30A 8 zeroPay]).board.data.ids .DBC [0x00, 0x00, 0x03, 0x0A, 0x08, 0, 0, 0, 0, 0, 0, 0, 0] =
      .ok (.dbc30a 8 zeroPay) ∧
    (start []).pending = [] := ⟨rfl, rfl, rfl, rfl⟩

/-- The primitives' values, at the last offset of each space. -/
theorem witness_primitive :
    ((holding [1, 2, 3, 4] payP).space .BUF).memRead 2 2 = some [3, 4] ∧
    ((holding [1, 2, 3, 4] payP).space .BUF).memRead 0 4 = some [1, 2, 3, 4] ∧
    ((holding [1, 2, 3, 4] payP).space .PAY).memRead 6 2 = some [0, 0] ∧
    ((holding [1, 2, 3, 4] payP).space .PAY).memRead 4 4 = some [0x15, 0x52, 0, 0] ∧
    ((holding [1, 2, 3, 4] payP).space .PAY).memRead 7 1 = some [0] := by decide

/-- PrimitiveOutsideItsSpaceIsRefused, each clause, one past the last offset. -/
theorem witness_primitive_outside :
    ((holding [1, 2, 3, 4] payP).space .BUF).memRead 3 2 = none ∧
    ((holding [1, 2, 3, 4] payP).space .PAY).memRead 5 4 = none ∧
    ((holding [1, 2, 3, 4] payP).space .PAY).memRead 8 1 = none := by decide

/-- BitsExtractsTheField and BitsOutsideTheByteIsRefused, where they meet. -/
theorem witness_bits : 4 + 4 ≤ 8 ∧ 8 < 5 + 4 := by decide

/-- StatusTextIsEntryOrUnknown, ErrTextIsEntryOrFallback, EnumerationTextsAreEntryOrUnknown: each clause. -/
theorem witness_rom :
    ((1 : Byte), (['O', 'n'] : Text)) ∈ statusRom (start []).board.data.roms .CHG_MOS_ROM ∧
    (2 : Byte) ∉ (statusRom (start []).board.data.roms .CHG_MOS_ROM).map Prod.fst ∧
    ((394301440 : Word), (['E'] : Text)) ∈ (start []).board.data.roms.ERR_ROM ∧
    (0xFFFFFFFF : Word) ∉ (start []).board.data.roms.ERR_ROM.map Prod.fst ∧
    ((9 : Fin 16), (['n'] : Text)) ∈ (start []).board.data.roms.ENUM1_ROM ∧
    (15 : Fin 16) ∉ (start []).board.data.roms.ENUM1_ROM.map Prod.fst ∧
    ((2 : Fin 3), (['t'] : Text)) ∈ (start []).board.data.roms.CYCLE_ROM ∧
    (0 : Fin 3) ∉ (start []).board.data.roms.CYCLE_ROM.map Prod.fst := by decide

/-- ShortBmsLengthGivesTheDefaultRecord, BmsDecodeExtractsEveryField, UntruthfulBmsLengthIsRefused,
BmsOperationLeavesTheDbcUnitAlone, TheTwoUnitsCommute: at the gate. -/
theorem witness_bms_gate : 120 < 121 ∧ (121 ≤ 121 ∧ 121 ≤ frameX.length) ∧ (121 ≤ 121 ∧ ([] : List Byte).length < 121) ∧
    (120 < 121 ∨ 121 ≤ ([] : List Byte).length) ∧ (121 < 121 ∨ 121 ≤ frameX.length) := by decide

/-- BmsRecordDependsOnTheFirst121Bytes. -/
theorem witness_bms_prefix : (start []).board = (start [.bms 0 []]).board ∧ 121 ≤ 121 ∧ 121 ≤ 140 ∧ 121 ≤ frameX.length ∧
    frameX.take 121 = (frameX ++ List.replicate 19 0xEE).take 121 := ⟨rfl, by decide, by decide, by decide, by decide⟩

/-- RecognisedIdentifierSucceedsWithItsTag, the nine decoders, LargerDlcChangesNothing: at each minimum. -/
theorem witness_enough : MsgKind.all.map MsgKind.minDlc = [8, 8, 8, 8, 8, 2, 1, 1, 8] ∧
    MsgKind.M9.minDlc ≤ 8 ∧ MsgKind.M9.minDlc ≤ 1000 ∧ MsgKind.NODE_CMD.minDlc ≤ 2 ∧ MsgKind.HB_A.minDlc ≤ 1 := by decide

/-- ShortDlcFailsEveryMessage, each clause, one below the minimum. -/
theorem witness_short : 7 < 8 ∧ 1 < 2 ∧ 0 < 1 := by decide

/-- UnknownIdentifierFails, DbcFailuresLookTheSame. -/
theorem witness_dbc_failures : 7 < MsgKind.M18A.minDlc ∧ ∀ k : MsgKind, k.id (start []).board.data.ids ≠ 0xFFF :=
  ⟨by decide, unknown_fff⟩

/-- SuccessExactlyWhenRecognisedAndLongEnough: each side, and the hypotheses of each clause, at the minimum. -/
theorem witness_success : outOf (exec (.dbcDecode 0x701 1 zeroPay) (start [])) = some (true, .HB_B ⟨0⟩) ∧
    outOf (exec (.dbcDecode 0x701 0 zeroPay) (start [])) = some (false, .NONE) ∧
    MsgKind.HB_B.id (start []).board.data.ids = 0x701 ∧ MsgKind.HB_B.minDlc ≤ 1 ∧
    (∀ k : MsgKind, k.id (start []).board.data.ids ≠ 0xFFF) :=
  ⟨by decide +kernel, by decide +kernel, rfl, by decide, unknown_fff⟩

/-- RoundingKeepsTagsAndRepresentableValues: any record and any container, readable. -/
theorem witness_rounding : (∀ r : BmsRecord, { start [] with bmsRec := r, bmsEnding := .completed }.readBms = some r) ∧
    (∀ c : Container, { start [] with success := true, out := c, dbcEnding := .completed }.readDbc = some (true, c)) :=
  ⟨fun _ => rfl, fun _ => rfl⟩

/-- DbcScaledValuesStayInTheirRanges: each clause meets its container. -/
theorem witness_ranges :
    [0x18A, 0x28A, 0x38A, 0x20A, 0x30A].map (fun id => (outOf (exec (.dbcDecode id 8 payP) (start []))).map (·.2.tag)) =
      [some .M18A, some .M28A, some .M38A, some .M20A, some .M30A] := by decide +kernel

/-- DbcOperationsLeaveTheBmsUnitAlone, InternalOperationsOnlyReturnAValue, NoOperationChangesTheConfiguration. -/
theorem witness_frames : dbcUnitOp (.dbcDecode 0xFFF 8 payP) = some payP ∧ dbcUnitOp (.dbcHbA 1 payP) = some payP ∧
    internalOp (.cycleClamp 3) = true ∧
    exec (.cycleClamp 3) (start []) = .next { start [] with opResult := .int 0 } := ⟨rfl, rfl, rfl, rfl⟩

/-- EveryStepKeepsTheInvariant. -/
theorem witness_invariant : (start [.dbc 0xFFF 8 zeroPay]).Inv ∧
    step (start [.dbc 0xFFF 8 zeroPay]) = .next { start [] with
      id := 0xFFF, dlc := 8, pay := Memory.ofPay zeroPay, dbcEnding := .failed .E_DBC_UNKNOWN_ID } :=
  ⟨start_inv _, rfl⟩

/-- StepIsRefusedOnlyForAnUntruthfulLength: the refused step (M8). -/
theorem witness_refused : step (start [.bms 121 []]) = .refused .readOutsideSpace := by rfl

/-- ResultsDependOnNoEarlierTransaction, ARunCollectsEachTransactionsOwnResult, HostReadsThePureFunctionAfterAStep: each
side of the premise, with a length below 121 and one above it that the buffer does not hold. -/
theorem witness_hasResult : hasResult (.bms 120 []) = true ∧ hasResult (.bms 140 frameX) = true ∧
    hasResult (.bms 121 []) = false ∧ (start []).board = (holding frameX payP).board ∧
    (∀ t ∈ (start [.bms 100 [], .dbc 0x30A 8 payP, .bms 140 frameX]).pending, hasResult t = true) := by
  refine ⟨rfl, by decide +kernel, rfl, rfl, by decide +kernel⟩

/-- CanonicalMemoriesAreEqualWhenTheyReadAlike. -/
theorem witness_canonical : (Memory.ofBytes [0, 7]).wf = true ∧ (⟨2, [(1, 7)]⟩ : Memory).wf = true ∧
    (∀ k, (Memory.ofBytes [0, 7]).read k = (⟨2, [(1, 7)]⟩ : Memory).read k) := ⟨rfl, rfl, fun _ => rfl⟩

/-- Entries out of order, past the size, or equal to the filler are not canonical. -/
theorem test_memory_not_canonical : (⟨4, [(2, 7), (1, 7)]⟩ : Memory).wf = false ∧ (⟨4, [(4, 7)]⟩ : Memory).wf = false ∧
    (⟨4, [(1, 0)]⟩ : Memory).wf = false := by decide

end Sys2Proof.Tests
end

namespace Sys2Proof.Machine

open Sys2Proof

/-! ### What a step runs -/

/-- Bytes decode to the operation that the transaction parsed from them selects. -/
theorem decode_of_parse {ids : Ids} {u : TxUnit} {bytes : List Byte} {t : Transaction}
    (h : parse u bytes = .ok t) : decode ids u bytes = .ok (select ids t) := by
  simp [decode, h]

/-- Settles O5: `step_cons` and `step_idle` for the two shapes of the pending list, and `decode_of_parse` for the bytes. -/
theorem stepRunsTheSelectedOperation : Obligations.StepRunsTheSelectedOperation := by
  intro s
  refine ⟨step_cons s, fun u bytes t i rest hparse hdecode hpending => ?_, step_idle s⟩
  have hselect : select s.board.data.ids t = i :=
    Except.ok.inj ((decode_of_parse hparse).symm.trans hdecode)
  rw [step_cons s t rest hpending, hselect]

/-! ### The read primitives, on the bytes they read -/

/-- A read primitive whose bytes lie inside its space returns its value and does nothing else (R110). -/
theorem readPrimitive_of_memRead {S : Space} {k n : Nat} {s : State} {l : List Byte}
    (v : Memory → OpResult) (h : (s.space S).memRead k n = some l) :
    readPrimitive S k n v s = .next (returnValue (v (s.space S)) s) := by
  simp [readPrimitive_eq, h]

/-- The two bytes of a read are those at its offset and the next one. -/
theorem byteAt_of_memRead_two {m : Memory} {k : Nat} {b0 b1 : Byte} (h : m.memRead k 2 = some [b0, b1]) :
    m.byteAt k = b0 ∧ m.byteAt (k + 1) = b1 := by
  obtain ⟨-, hbytes⟩ := (memRead_eq_some_iff m k 2 [b0, b1]).1 h
  simpa [List.range_succ, eq_comm] using hbytes

/-- `LE16U` of the bytes read (R113). -/
theorem le16u_toNat_of_memRead {m : Memory} {k : Nat} {b0 b1 : Byte} (h : m.memRead k 2 = some [b0, b1]) :
    (le16u m k).toNat = b0.toNat + 256 * b1.toNat := by
  obtain ⟨h0, h1⟩ := byteAt_of_memRead_two h
  rw [le16u_toNat, h0, h1, Nat.add_comm]

/-- `LE16S` of the bytes read (R114). -/
theorem le16s_of_memRead {m : Memory} {k : Nat} {b0 b1 : Byte} (h : m.memRead k 2 = some [b0, b1]) :
    le16s m k = if b0.toNat + 256 * b1.toNat < 32768 then (b0.toNat + 256 * b1.toNat : Int)
      else (b0.toNat + 256 * b1.toNat : Int) - 65536 := by
  simp only [le16s_eq, le16u_toNat_of_memRead h, Nat.cast_add, Nat.cast_mul, Nat.cast_ofNat]

/-- `LE16S` run by itself is the read primitive on two bytes. -/
theorem exec_le16s (S : Space) (k : Nat) (s : State) :
    exec (.le16s S k) s = readPrimitive S k 2 (fun m => .int (le16s m k)) s := rfl

/-- Settles O9: the read is inside the space, so `LE16S` returns its value, that of the two bytes read. -/
theorem le16sReadsTwosComplement : Obligations.Le16sReadsTwosComplement := by
  intro s S k b0 b1 h
  rw [exec_le16s, readPrimitive_of_memRead _ h, le16s_of_memRead h]
  rfl

end Sys2Proof.Machine

namespace Sys2Proof.Machine

open Sys2Proof

/-! ### Reading a presented space -/

/-- A presented space reads as presented, and has no value outside (R51, R58). -/
@[simp] theorem read_ofBytes (l : List Byte) (k : Nat) : (Memory.ofBytes l).read k = l[k]? := by
  by_cases h : k < l.length <;> simp [Memory.read, h]

/-- A presented payload reads as presented, and has no value outside (R52, R58). -/
@[simp] theorem read_ofPay (p : Pay) (k : Nat) : (Memory.ofPay p).read k = (payBytes p)[k]? := read_ofBytes _ _

/-! ### The operation of each unit, where it has a result -/

section Operations

variable (s : State)

/-- `BMS_DECODE` where it has a result: its inputs presented, and the transaction ended (R150). -/
theorem exec_bmsDecode_of_hasResult {length : Nat} {buf : List Byte} (h : length < 121 ∨ 121 ≤ buf.length) :
    exec (.bmsDecode length buf) s =
      .next (endBms (bmsResult s.board.data length (Memory.ofBytes buf)) (presentBms length buf s)) := by
  have hout : ¬ (121 ≤ length ∧ buf.length < 121) := by omega
  rw [exec, execBmsDecode_eq, if_neg hout]

/-- What a DBC transaction selects does what the entry operation does (R84, R180). -/
theorem exec_select_dbc (id : Word) (dlc : Nat) (pay : Pay) :
    exec (select s.board.data.ids (.dbc id dlc pay)) s =
      .next (endDbc (dbcResult s.board.data id dlc (Memory.ofPay pay)) (presentDbc id dlc pay s)) := by
  cases hk : recognise s.board.data.ids id with
  | none => simp only [select, hk, exec, execDbcDecode_eq]
  | some k =>
    simp only [select, hk, exec_decoderFor, runMessage_eq, dbcResult, id_of_recognise _ _ _ hk]

/-- The operations of the DBC unit: its entry operation, and the decoder of a message (R84). -/
theorem dbcUnitOp_cases {i : Instr} {p : Pay} (h : dbcUnitOp i = some p) :
    (∃ id dlc, i = .dbcDecode id dlc p) ∨ ∃ k dlc, i = decoderFor k dlc p := by
  cases i with
  | dbcDecode id dlc pay => exact .inl ⟨id, dlc, congrArg _ (Option.some.inj h)⟩
  | dbc18a dlc pay => exact .inr ⟨.M18A, dlc, congrArg _ (Option.some.inj h)⟩
  | dbc28a dlc pay => exact .inr ⟨.M28A, dlc, congrArg _ (Option.some.inj h)⟩
  | dbc38a dlc pay => exact .inr ⟨.M38A, dlc, congrArg _ (Option.some.inj h)⟩
  | dbc20a dlc pay => exact .inr ⟨.M20A, dlc, congrArg _ (Option.some.inj h)⟩
  | dbc30a dlc pay => exact .inr ⟨.M30A, dlc, congrArg _ (Option.some.inj h)⟩
  | dbcNodeCmd dlc pay => exact .inr ⟨.NODE_CMD, dlc, congrArg _ (Option.some.inj h)⟩
  | dbcHbA dlc pay => exact .inr ⟨.HB_A, dlc, congrArg _ (Option.some.inj h)⟩
  | dbcHbB dlc pay => exact .inr ⟨.HB_B, dlc, congrArg _ (Option.some.inj h)⟩
  | dbcM9 dlc pay => exact .inr ⟨.M9, dlc, congrArg _ (Option.some.inj h)⟩
  | _ => cases h

/-- Every operation of the DBC unit completes: its inputs presented, and the transaction ended. -/
theorem exec_of_dbcUnitOp {i : Instr} {p : Pay} (h : dbcUnitOp i = some p) :
    ∃ r id dlc, exec i s = .next (endDbc r (presentDbc id dlc p s)) := by
  obtain ⟨id, dlc, rfl⟩ | ⟨k, dlc, rfl⟩ := dbcUnitOp_cases h
  · exact ⟨_, _, _, execDbcDecode_eq id dlc p s⟩
  · exact ⟨_, _, _, (exec_decoderFor k dlc p s).trans (runMessage_eq k dlc p s)⟩

end Operations

/-- Settles O47: such an operation presents at the DBC unit's input ports and ends at its output ports. -/
theorem dbcOperationsLeaveTheBmsUnitAlone : Obligations.DbcOperationsLeaveTheBmsUnitAlone := by
  intro i p s hop
  obtain ⟨r, id, dlc, hexec⟩ := exec_of_dbcUnitOp s hop
  exact ⟨_, hexec, by simp⟩

/-- Settles O48: such an operation presents at the BMS unit's input ports and ends at its output ports. -/
theorem bmsOperationLeavesTheDbcUnitAlone : Obligations.BmsOperationLeavesTheDbcUnitAlone := by
  intro s length buf hr
  exact ⟨_, exec_bmsDecode_of_hasResult s hr, by simp⟩

/-! ### What the host reads after a transaction -/

section Reads

variable {s : State}

/-- After a BMS transaction the host reads the pure function of its inputs (R20). -/
theorem readBms_endBms (length : Nat) (buf : List Byte) :
    (endBms (bmsResult s.board.data length (Memory.ofBytes buf)) (presentBms length buf s)).readBms =
      some (bmsDecodePure s.board.data buf length) := by
  unfold bmsDecodePure
  cases bmsResult s.board.data length (Memory.ofBytes buf) <;> rfl

/-- After a DBC transaction the host reads the pure function of its inputs (R20). -/
theorem readDbc_endDbc (id : Word) (dlc : Nat) (pay : Pay) :
    (endDbc (dbcResult s.board.data id dlc (Memory.ofPay pay)) (presentDbc id dlc pay s)).readDbc =
      some (dbcDecodePure s.board.data id pay dlc) := by
  unfold dbcDecodePure
  cases dbcResult s.board.data id dlc (Memory.ofPay pay) <;> rfl

/-- What the host reads of the BMS unit stands at its output port. -/
theorem bmsRec_of_readBms {r : BmsRecord} (h : s.readBms = some r) : s.bmsRec = r := by
  unfold State.readBms at h
  split at h
  · cases h
  · exact Option.some.inj h

/-- What the host reads of the DBC unit stands at its output ports. -/
theorem outputs_of_readDbc {r : Bool × Container} (h : s.readDbc = some r) : s.success = r.1 ∧ s.out = r.2 := by
  unfold State.readDbc at h
  split at h
  · cases h
  · exact Prod.mk.inj (Option.some.inj h)

/-- A step of a BMS transaction that has a result. -/
theorem step_bms {length : Nat} {buf : List Byte} {rest : List Transaction}
    (hp : s.pending = .bms length buf :: rest) (hr : length < 121 ∨ 121 ≤ buf.length) :
    ∃ u, step s = .next u ∧ u.board = s.board ∧ u.pending = rest ∧
      u.readBms = some (bmsDecodePure s.board.data buf length) :=
  ⟨_, (step_cons s _ rest hp).trans (exec_bmsDecode_of_hasResult _ hr), endBms_board _ _, endBms_pending _ _,
    readBms_endBms length buf⟩

/-- A step of a DBC transaction. -/
theorem step_dbc {id : Word} {dlc : Nat} {pay : Pay} {rest : List Transaction}
    (hp : s.pending = .dbc id dlc pay :: rest) :
    ∃ u, step s = .next u ∧ u.board = s.board ∧ u.pending = rest ∧
      u.readDbc = some (dbcDecodePure s.board.data id pay dlc) :=
  ⟨_, (step_cons s _ rest hp).trans (exec_select_dbc { s with pending := rest } id dlc pay), endDbc_board _ _,
    endDbc_pending _ _, readDbc_endDbc id dlc pay⟩

/-- A step of a transaction that has a result: it is taken off the list, and its pure result stands at its unit's
outputs (R28). -/
theorem step_of_hasResult {t : Transaction} {rest : List Transaction} (ht : hasResult t = true)
    (hp : s.pending = t :: rest) :
    ∃ u, step s = .next u ∧ u.board = s.board ∧ u.pending = rest ∧
      outputsFor t u = pureResult s.board.data t := by
  cases t with
  | bms length buf =>
    obtain ⟨u, hstep, hboard, hpending, hread⟩ := step_bms hp (of_decide_eq_true ht)
    exact ⟨u, hstep, hboard, hpending, congrArg TxResult.bms (bmsRec_of_readBms hread)⟩
  | dbc id dlc pay =>
    obtain ⟨u, hstep, hboard, hpending, hread⟩ := step_dbc hp
    obtain ⟨hsuccess, hout⟩ := outputs_of_readDbc hread
    exact ⟨u, hstep, hboard, hpending, congrArg₂ TxResult.dbc hsuccess hout⟩

end Reads

/-- Settles O58: `step_bms` and `step_dbc`. -/
theorem hostReadsThePureFunctionAfterAStep : Obligations.HostReadsThePureFunctionAfterAStep := by
  refine fun s rest => ⟨fun length buf hp hr => ?_, fun id dlc pay hp => ?_⟩
  · obtain ⟨u, hstep, -, -, hread⟩ := step_bms hp hr
    exact ⟨u, hstep, hread⟩
  · obtain ⟨u, hstep, -, -, hread⟩ := step_dbc hp
    exact ⟨u, hstep, hread⟩

/-- Settles O55: in both states the outputs are the pure result under the one configuration. -/
theorem resultsDependOnNoEarlierTransaction : Obligations.ResultsDependOnNoEarlierTransaction := by
  intro t rest rest' s s' ht hboard hp hp'
  obtain ⟨u, hstep, -, -, hout⟩ := step_of_hasResult ht hp
  obtain ⟨u', hstep', -, -, hout'⟩ := step_of_hasResult ht hp'
  exact ⟨u, u', hstep, hstep', by rw [hout, hout', hboard], hout⟩

/-! ### A run over the pending list -/

/-- Collecting goes on from the state a step leaves. -/
theorem collect_cons_of_next {s u : State} (t : Transaction) (ts : List Transaction) (h : step s = .next u) :
    collect (t :: ts) s = (collect ts u).map (outputsFor t u :: ·) := by
  simp only [collect, h]

/-- A run over its whole pending list collects each transaction's pure result. -/
theorem collect_eq_map_pureResult (ts : List Transaction) (s : State) (hp : s.pending = ts)
    (hts : ∀ t ∈ ts, hasResult t = true) : collect ts s = some (ts.map (pureResult s.board.data)) := by
  induction ts generalizing s with
  | nil => rfl
  | cons t ts ih =>
    obtain ⟨ht, hrest⟩ := List.forall_mem_cons.1 hts
    obtain ⟨u, hstep, hboard, hpending, hout⟩ := step_of_hasResult ht hp
    rw [collect_cons_of_next t ts hstep, ih u hpending hrest, hout, hboard]
    rfl

/-- Settles O57, by induction on the pending list. -/
theorem aRunCollectsEachTransactionsOwnResult : Obligations.ARunCollectsEachTransactionsOwnResult :=
  fun s hts => collect_eq_map_pureResult s.pending s rfl hts

/-! ### The invariant -/

section Invariant

variable {s : State}

/-- A BMS transaction and the end of a DBC one touch different ports. -/
theorem endDbc_endBms_presentBms (q : Except Failure BmsRecord) (r : Except Failure Container) (length : Nat)
    (buf : List Byte) (s : State) :
    endDbc r (endBms q (presentBms length buf s)) = endBms q (presentBms length buf (endDbc r s)) := by
  cases q <;> cases r <;> rfl

/-- A DBC transaction and the end of a BMS one touch different ports. -/
theorem endBms_endDbc_presentDbc (q : Except Failure BmsRecord) (r : Except Failure Container) (id : Word) (dlc : Nat)
    (pay : Pay) (s : State) :
    endBms q (endDbc r (presentDbc id dlc pay s)) = endDbc r (presentDbc id dlc pay (endBms q s)) := by
  cases q <;> cases r <;> rfl

/-- Ending a BMS transaction does not look at the pending list. -/
theorem endBms_withPending (q : Except Failure BmsRecord) (ts : List Transaction) (s : State) :
    endBms q { s with pending := ts } = { endBms q s with pending := ts } := by cases q <;> rfl

/-- Ending a DBC transaction does not look at the pending list. -/
theorem endDbc_withPending (r : Except Failure Container) (ts : List Transaction) (s : State) :
    endDbc r { s with pending := ts } = { endDbc r s with pending := ts } := by cases r <;> rfl

/-- A buffer that is long enough for its length is not read outside (R276). -/
theorem bmsReadsOutside_ofBytes {length : Nat} {buf : List Byte} (h : length < 121 ∨ 121 ≤ buf.length) :
    bmsReadsOutside length (Memory.ofBytes buf) = false := by
  rw [bmsReadsOutside, size_ofBytes, Bool.and_eq_false_iff, decide_eq_false_iff_not, decide_eq_false_iff_not]
  simp only [BMS_MIN_LEN]
  omega

/-- A DBC transaction that succeeds sets a message's tag (R183). -/
theorem tag_ne_none_of_dbcResult {c : Config} {id : Word} {dlc : Nat} {m : Memory} {out : Container}
    (h : dbcResult c id dlc m = .ok out) : out.tag ≠ .NONE := by
  unfold dbcResult at h
  split at h
  · cases h
  · next k _ =>
    unfold gated at h
    split at h
    · cases h
    · obtain rfl := Except.ok.inj h
      rw [tag_extract]
      exact tagOf_ne_none k

/-- A DBC transaction ends with `success` exactly when its container has a message's tag (R24). -/
theorem success_endDbc_iff (c : Config) (id : Word) (dlc : Nat) (m : Memory) (s : State) :
    (endDbc (dbcResult c id dlc m) s).success = true ↔ (endDbc (dbcResult c id dlc m) s).out.tag ≠ .NONE := by
  cases h : dbcResult c id dlc m with
  | ok out => simp [tag_ne_none_of_dbcResult h]
  | error f => simp [Container.tag]

/-- The invariant does not look at the pending list. -/
theorem State.Inv.withPending (h : s.Inv) (ts : List Transaction) : { s with pending := ts }.Inv where
  buf_wf := h.buf_wf
  pay_wf := h.pay_wf
  pay_size := h.pay_size
  success_tag := h.success_tag
  bms_outputs := h.bms_outputs.imp_right fun ⟨hin, hend⟩ => ⟨hin, by simp only [endBms_withPending, hend]⟩
  dbc_outputs := h.dbc_outputs.imp_right fun hend => by simp only [endDbc_withPending, hend]

/-- A BMS transaction that has a result keeps the invariant. -/
theorem State.Inv.bmsTransaction (h : s.Inv) {length : Nat} {buf : List Byte}
    (hr : length < 121 ∨ 121 ≤ buf.length) :
    (endBms (bmsResult s.board.data length (Memory.ofBytes buf)) (presentBms length buf s)).Inv where
  buf_wf := by simp
  pay_wf := by simpa using h.pay_wf
  pay_size := by simpa using h.pay_size
  success_tag := by simpa using h.success_tag
  bms_outputs := .inr ⟨by simpa using bmsReadsOutside_ofBytes hr, by simp⟩
  dbc_outputs := by simpa [endDbc_endBms_presentBms] using h.dbc_outputs.imp_right fun hend => by rw [hend]

/-- A DBC transaction keeps the invariant. -/
theorem State.Inv.dbcTransaction (h : s.Inv) (id : Word) (dlc : Nat) (pay : Pay) :
    (endDbc (dbcResult s.board.data id dlc (Memory.ofPay pay)) (presentDbc id dlc pay s)).Inv where
  buf_wf := by simpa using h.buf_wf
  pay_wf := by simp
  pay_size := by simp
  success_tag := success_endDbc_iff _ _ _ _ _
  bms_outputs := by
    simpa [endBms_endDbc_presentDbc] using h.bms_outputs.imp_right fun ⟨hin, hend⟩ => ⟨hin, by rw [hend]⟩
  dbc_outputs := .inr (by simp)

end Invariant

/-- Settles O53: a step idles, or runs one transaction of a unit from the state with the rest pending. -/
theorem everyStepKeepsTheInvariant : Obligations.EveryStepKeepsTheInvariant := by
  intro s t hinv hstep
  cases hp : s.pending with
  | nil =>
    rw [step_idle s hp] at hstep
    exact Host.Outcome.next.inj hstep ▸ hinv
  | cons tx rest =>
    rw [step_cons s tx rest hp] at hstep
    have hrest := hinv.withPending rest
    cases tx with
    | bms length buf =>
      rw [select, exec, execBmsDecode_eq] at hstep
      split at hstep
      · cases hstep
      · next hr => exact Host.Outcome.next.inj hstep ▸ hrest.bmsTransaction (by omega)
    | dbc id dlc pay =>
      have hnext := (exec_select_dbc { s with pending := rest } id dlc pay).symm.trans hstep
      exact Host.Outcome.next.inj hnext ▸ hrest.dbcTransaction id dlc pay

/-- Settles O52: both spaces are empty of entries, and no unit has run. -/
theorem invariantHoldsAfterReset : Obligations.InvariantHoldsAfterReset where
  buf_wf := rfl
  pay_wf := rfl
  pay_size := rfl
  success_tag := by simp [State.reset, Container.tag]
  bms_outputs := .inl rfl
  dbc_outputs := .inl rfl

/-- Settles O51: no unit has run. -/
theorem afterResetNothingIsReadable : Obligations.AfterResetNothingIsReadable :=
  ⟨rfl, rfl, rfl, rfl, rfl⟩

/-! ### The host's float view -/

/-- `FP_ROUND` keeps what the float type represents (R121). -/
theorem fpRound_of_fpExact {q : Rat} (h : Config.fpExact q = true) : fpRound q = q := if_pos h

/-- Rounding a container keeps its tag. -/
@[simp] theorem tag_fpRounded (c : Container) : c.fpRounded.tag = c.tag := by cases c <;> rfl

/-- Each cell voltage is rounded. -/
theorem cell_voltages_fpRounded (r : BmsRecord) (i : Fin 20) :
    r.fpRounded.cell_voltages[i] = fpRound r.cell_voltages[i] := Vector.getElem_map _ _

/-- The float view of a BMS unit that can be read. -/
theorem readBmsFloat_of_readBms {s : State} {r : BmsRecord} (h : s.readBms = some r) :
    s.readBmsFloat = some r.fpRounded := by rw [State.readBmsFloat, h, Option.map_some]

/-- The float view of a DBC unit that can be read. -/
theorem readDbcFloat_of_readDbc {s : State} {ok : Bool} {c : Container} (h : s.readDbc = some (ok, c)) :
    s.readDbcFloat = some (ok, c.fpRounded) := by rw [State.readDbcFloat, h, Option.map_some]

/-- Settles O17: the float view is the exact one with `FP_ROUND` on each scaled field. -/
theorem roundingKeepsTagsAndRepresentableValues : Obligations.RoundingKeepsTagsAndRepresentableValues := by
  refine ⟨fun q => ?_, fun s => ?_, fun s r hread => ?_, fun s ok c hread => ?_⟩
  · exact (Bool.eq_false_or_eq_true (Config.fpExact q)).symm.imp_right fpRound_of_fpExact
  · exact ⟨Option.map_eq_none_iff.symm, Option.map_eq_none_iff.symm⟩
  · exact ⟨r.fpRounded, readBmsFloat_of_readBms hread, rfl, rfl, rfl, cell_voltages_fpRounded r, rfl, rfl,
      rfl, rfl, rfl, rfl, rfl, rfl, rfl, rfl, rfl, rfl, rfl, rfl, rfl, rfl⟩
  · refine ⟨c.fpRounded, readDbcFloat_of_readDbc hread, tag_fpRounded c, ?_⟩
    cases c <;> simp [Container.fpRounded]

end Sys2Proof.Machine

namespace Sys2Proof.Machine

open Sys2Proof

/-! ### The canonical form of a byte space -/

/-- The canonical form of a first entry and the entries after it. -/
theorem cellsWf_cons {size k a : Nat} {b : Byte} {r : List Host.Cell} :
    cellsWf size k ((a, b) :: r) = true ↔ k ≤ a ∧ a < size ∧ b ≠ fillerByte ∧ cellsWf size (a + 1) r = true := by
  simp only [cellsWf, Bool.and_eq_true, decide_eq_true_eq, and_assoc]

@[simp] theorem cellAt_cons_self (a : Nat) (b : Byte) (r : List Host.Cell) : cellAt ((a, b) :: r) a = b := if_pos rfl

theorem cellAt_cons_of_ne {a j : Nat} (b : Byte) (r : List Host.Cell) (h : a ≠ j) :
    cellAt ((a, b) :: r) j = cellAt r j := if_neg h

/-- Canonical entries from `k` on list no offset before `k`. -/
theorem cellAt_of_cellsWf_of_lt {size k j : Nat} {cs : List Host.Cell} (w : cellsWf size k cs = true) (h : j < k) :
    cellAt cs j = fillerByte := by
  induction cs generalizing k with
  | nil => rfl
  | cons c r ih =>
    obtain ⟨hka, -, -, wr⟩ := cellsWf_cons.1 w
    rw [cellAt_cons_of_ne _ _ (by omega)]
    exact ih wr (by omega)

/-- An entry is seen at its offset: entries that all lie later read otherwise there. -/
theorem cellAt_cons_ne_of_later {size k a : Nat} {b : Byte} (r : List Host.Cell) {cs : List Host.Cell}
    (hb : b ≠ fillerByte) (w : cellsWf size k cs = true) (h : a < k) : cellAt ((a, b) :: r) a ≠ cellAt cs a := by
  rwa [cellAt_cons_self, cellAt_of_cellsWf_of_lt w h]

/-- Canonical entries from `k` on that read alike from `k` on are equal: the first entries stand at one offset, since
the earlier one would be seen there, and hold one byte. -/
theorem cells_eq_of_cellAt_eq {size k : Nat} {cs cs' : List Host.Cell} (w : cellsWf size k cs = true)
    (w' : cellsWf size k cs' = true) (h : ∀ j, k ≤ j → j < size → cellAt cs j = cellAt cs' j) : cs = cs' := by
  induction cs generalizing k cs' with
  | nil =>
    cases cs' with
    | nil => rfl
    | cons c' r' =>
      obtain ⟨hk, hs, hb, -⟩ := cellsWf_cons.1 w'
      exact absurd (h _ hk hs).symm (cellAt_cons_ne_of_later (size := size) r' hb rfl (Nat.lt_succ_self _))
  | cons c r ih =>
    obtain ⟨a, b⟩ := c
    obtain ⟨hk, hs, hb, wr⟩ := cellsWf_cons.1 w
    cases cs' with
    | nil => exact absurd (h a hk hs) (cellAt_cons_ne_of_later (size := size) r hb rfl (Nat.lt_succ_self _))
    | cons c' r' =>
      obtain ⟨a', b'⟩ := c'
      obtain ⟨hk', hs', hb', wr'⟩ := cellsWf_cons.1 w'
      obtain hlt | rfl | hgt := Nat.lt_trichotomy a a'
      · have later := cellsWf_cons.2 ⟨le_refl a', hs', hb', wr'⟩
        exact absurd (h a hk hs) (cellAt_cons_ne_of_later r hb later hlt)
      · have hbyte : b = b' := by simpa using h a hk hs
        have hrest : r = r' := ih wr wr' fun j hj hjs => by
          simpa only [cellAt_cons_of_ne _ _ (Nat.ne_of_lt hj)] using h j (by omega) hjs
        rw [hbyte, hrest]
      · have later := cellsWf_cons.2 ⟨le_refl a, hs, hb, wr⟩
        exact absurd (h a' hk' hs').symm (cellAt_cons_ne_of_later r' hb' later hgt)

/-- A read inside the space gives the byte that stands there. -/
theorem read_of_lt {m : Memory} {k : Nat} (h : k < m.size) : m.read k = some (m.byteAt k) := if_pos h

/-- Settles O60: reads alike give bytes alike below the size, so `cells_eq_of_cellAt_eq` applies from offset 0. -/
theorem canonicalMemoriesAreEqualWhenTheyReadAlike : Obligations.CanonicalMemoriesAreEqualWhenTheyReadAlike := by
  intro ⟨size, cells⟩ ⟨size', cells'⟩ w w' hsize hread
  obtain rfl : size = size' := hsize
  have hcells : cells = cells' := cells_eq_of_cellAt_eq w w' fun j _ hj =>
    Option.some.inj ((read_of_lt hj).symm.trans ((hread j).trans (read_of_lt hj)))
  rw [hcells]

/-- Settles O59: the laws of a presented space. -/
theorem presentedBytesReadBack : Obligations.PresentedBytesReadBack :=
  fun l => ⟨wf_ofBytes l, size_ofBytes l, read_ofBytes l⟩

/-! ### Reads outside a space -/

/-- A read primitive with a byte outside its space is refused (R58, R110). -/
theorem readPrimitive_of_memRead_none {S : Space} {k n : Nat} {s : State} (v : Memory → OpResult)
    (h : (s.space S).memRead k n = none) : readPrimitive S k n v s = .refused .readOutsideSpace := by
  rw [readPrimitive_eq, if_pos h]

section Primitives

variable (S : Space) (k : Nat) (s : State)

/-- `BE16U` run by itself is the read primitive on two bytes. -/
theorem exec_be16u : exec (.be16u S k) s = readPrimitive S k 2 (fun m => .int (be16u m k).toNat) s := rfl

/-- `BE32U` run by itself is the read primitive on four bytes. -/
theorem exec_be32u : exec (.be32u S k) s = readPrimitive S k 4 (fun m => .int (be32u m k).toNat) s := rfl

/-- `LE16U` run by itself is the read primitive on two bytes. -/
theorem exec_le16u : exec (.le16u S k) s = readPrimitive S k 2 (fun m => .int (le16u m k).toNat) s := rfl

/-- `LE32U` run by itself is the read primitive on four bytes. -/
theorem exec_le32u : exec (.le32u S k) s = readPrimitive S k 4 (fun m => .int (le32u m k).toNat) s := rfl

/-- `U8` run by itself is the read primitive on one byte. -/
theorem exec_u8 : exec (.u8 S k) s = readPrimitive S k 1 (fun m => .int (u8 m k).toNat) s := rfl

end Primitives

/-- Settles O12: each of the six is `readPrimitive` on its number of bytes. -/
theorem primitiveOutsideItsSpaceIsRefused : Obligations.PrimitiveOutsideItsSpaceIsRefused := by
  refine fun s S k => ⟨fun h => ?_, fun h => ?_, fun h => ?_⟩
  · rw [exec_be16u, exec_le16u, exec_le16s]
    exact ⟨readPrimitive_of_memRead_none _ h, readPrimitive_of_memRead_none _ h, readPrimitive_of_memRead_none _ h⟩
  · rw [exec_be32u, exec_le32u]
    exact ⟨readPrimitive_of_memRead_none _ h, readPrimitive_of_memRead_none _ h⟩
  · rw [exec_u8]
    exact readPrimitive_of_memRead_none _ h

/-- Settles O27: the refused side of a BMS transaction. -/
theorem untruthfulBmsLengthIsRefused : Obligations.UntruthfulBmsLengthIsRefused := by
  intro s length buf hlen hbuf
  rw [exec, execBmsDecode_eq, if_pos ⟨hlen, hbuf⟩]

/-! ### What the BMS record depends on -/

/-- R155: on a board, the BMS fields are read below offset 121, so spaces alike there give the same record. -/
theorem extractBms_congr (b : Board) {m m' : Memory} (h : ∀ k < 121, m.byteAt k = m'.byteAt k) :
    extractBms b.data m = extractBms b.data m' := by
  have h8 (k : Nat) (hk : k + 1 ≤ 121) : u8 m k = u8 m' k := u8_congr (h k hk)
  have h16 (k : Nat) (hk : k + 2 ≤ 121) : be16u m k = be16u m' k :=
    be16u_congr (h k (by omega)) (h (k + 1) (by omega))
  have h32 (k : Nat) (hk : k + 4 ≤ 121) : be32u m k = be32u m' k :=
    be32u_congr (h k (by omega)) (h (k + 1) (by omega)) (h (k + 2) (by omega)) (h (k + 3) (by omega))
  obtain ⟨hI, hSoc, hMos, hTBal, hExt, hPhys, hRem, hCyc, hChg, hDsg, hBal, hHiIdx, hHiV, hLoIdx, hLoV⟩ := b.bms_fits
  have hV := h16 PACK_V_OFF (by decide)
  have hCell (i : Fin 20) := h16 (CELL0_OFF + CELL_STRIDE * i.val) (by simp only [CELL0_OFF, CELL_STRIDE]; omega)
  have hTemp (j : Fin 4) := h16 (b.data.bms.TEMP_EXT_OFF + TEMP_EXT_STRIDE * j.val)
    (by simp only [TEMP_EXT_STRIDE]; omega)
  simp only [extractBms, scaledBe16, scaledBe32, hV, hCell, hTemp, h16 _ hI, h16 _ hMos, h16 _ hTBal, h16 _ hHiV,
    h16 _ hLoV, h32 _ hPhys, h32 _ hRem, h32 _ hCyc, h8 _ hSoc, h8 _ hChg, h8 _ hDsg, h8 _ hBal, h8 _ hHiIdx,
    h8 _ hLoIdx]

/-- Presented spaces with the same first `n` bytes hold the same byte at each offset below `n`. -/
theorem byteAt_ofBytes_congr {n k : Nat} {l l' : List Byte} (h : l.take n = l'.take n) (hk : k < n) :
    (Memory.ofBytes l).byteAt k = (Memory.ofBytes l').byteAt k := by
  have hget : l[k]? = l'[k]? := by rw [← List.getElem?_take_of_lt hk, h, List.getElem?_take_of_lt hk]
  simp only [byteAt_ofBytes, List.getD_eq_getElem?_getD, hget]

/-- Past the gate the BMS unit extracts its record (R150, R152). -/
theorem bmsResult_of_le (c : Config) {length : Nat} (m : Memory) (h : 121 ≤ length) :
    bmsResult c length m = .ok (extractBms c m) := if_neg (Nat.not_lt.2 h)

/-- Settles O28: both transactions complete, with records extracted from spaces alike below offset 121. -/
theorem bmsRecordDependsOnTheFirst121Bytes : Obligations.BmsRecordDependsOnTheFirst121Bytes := by
  intro s s' n n' buf buf' hboard hn hn' hbuf htake
  have hbuf' : 121 ≤ buf'.length := by
    have := congrArg List.length htake
    simp only [List.length_take] at this
    omega
  have hrecord : extractBms s.board.data (.ofBytes buf) = extractBms s'.board.data (.ofBytes buf') :=
    hboard ▸ extractBms_congr s.board fun k => byteAt_ofBytes_congr htake
  refine ⟨_, _, exec_bmsDecode_of_hasResult s (.inr hbuf), exec_bmsDecode_of_hasResult s' (.inr hbuf'), ?_⟩
  rw [bmsResult_of_le _ _ hn, bmsResult_of_le _ _ hn', endBms_ok_bmsRec, endBms_ok_bmsRec, hrecord]

end Sys2Proof.Machine

namespace Sys2Proof.Machine

open Sys2Proof

/-! ### Identifiers and the messages they name -/

/-- An identifier is not recognised exactly when it is no message's (R87). -/
theorem recognise_eq_none_iff (ids : Ids) (id : Word) : recognise ids id = none ↔ ∀ k : MsgKind, k.id ids ≠ id := by
  have harms : recognise ids id = none ↔ ∀ k ∈ MsgKind.all, id ≠ k.id ids := by
    simp [recognise, MsgKind.all, ite_eq_iff]
  simp only [harms, MsgKind.mem_all, true_imp_iff, ne_comm]

/-- R85: on a board no two messages share an identifier. -/
theorem id_injective (b : Board) : Function.Injective (MsgKind.id b.data.ids) :=
  fun j k => List.inj_on_of_nodup_map b.ids_distinct.1 j.mem_all k.mem_all

/-- On a board a message's identifier is recognised as that message (R83, R85). -/
theorem recognise_id (b : Board) (k : MsgKind) : recognise b.data.ids (k.id b.data.ids) = some k := by
  cases h : recognise b.data.ids (k.id b.data.ids) with
  | none => exact absurd rfl ((recognise_eq_none_iff _ _).1 h k)
  | some j => rw [id_injective b (id_of_recognise _ _ _ h)]

/-- S7: on a board 0xFFF is no message's identifier. -/
theorem recognise_fff (b : Board) : recognise b.data.ids 0xFFF = none :=
  (recognise_eq_none_iff _ _).2 fun k hk => b.ids_distinct.2 (hk ▸ List.mem_map_of_mem k.mem_all)

/-- Settles O4: `id_of_recognise` and its converse `recognise_id`. -/
theorem identifierNamesMessageOnlyByAllItsBits : Obligations.IdentifierNamesMessageOnlyByAllItsBits :=
  fun b id k => ⟨id_of_recognise b.data.ids id k, fun h => h ▸ recognise_id b k⟩

/-! ### The operation a transaction selects -/

section Selection

variable {ids : Ids} {id : Word} {k : MsgKind}

/-- The lengths of a transaction fit the fields of its serialised form (R97). -/
def Fits : Transaction → Prop
  | .bms length _ => length < 65536
  | .dbc _ dlc _ => dlc < 256

theorem select_dbc_of_recognise (dlc : Nat) (pay : Pay) (h : recognise ids id = some k) :
    select ids (.dbc id dlc pay) = decoderFor k dlc pay := by simp only [select, h]

theorem select_dbc_of_unrecognised (dlc : Nat) (pay : Pay) (h : recognise ids id = none) :
    select ids (.dbc id dlc pay) = .dbcDecode id dlc pay := by simp only [select, h]

theorem selectable_bmsDecode (length : Nat) (buf : List Byte) :
    (Instr.bmsDecode length buf).selectable ids = true ↔ length < 65536 := by
  simp [Instr.selectable, Instr.serialisable]

theorem selectable_dbcDecode (dlc : Nat) (pay : Pay) :
    (Instr.dbcDecode id dlc pay).selectable ids = true ↔ dlc < 256 ∧ recognise ids id = none := by
  simp [Instr.selectable, Instr.serialisable]

theorem selectable_decoderFor (dlc : Nat) (pay : Pay) :
    (decoderFor k dlc pay).selectable ids = true ↔ dlc < 256 := by
  cases k <;> simp [decoderFor, Instr.selectable, Instr.serialisable]

/-- A message's decoder is selected under the message's identifier (R84). -/
theorem transactionOf_decoderFor (dlc : Nat) (pay : Pay) :
    transactionOf ids (decoderFor k dlc pay) = some (.dbc (k.id ids) dlc pay) := by cases k <;> rfl

/-- What a transaction selects is one of the two entry operations or the decoder of a message (R84). -/
theorem selectable_cases {i : Instr} (h : i.selectable ids = true) :
    (∃ length buf, i = .bmsDecode length buf) ∨ (∃ id dlc pay, i = .dbcDecode id dlc pay) ∨
      ∃ k dlc pay, i = decoderFor k dlc pay := by
  cases hp : dbcUnitOp i with
  | some pay =>
    obtain ⟨id, dlc, hi⟩ | ⟨k, dlc, hi⟩ := dbcUnitOp_cases hp
    · exact .inr (.inl ⟨id, dlc, pay, hi⟩)
    · exact .inr (.inr ⟨k, dlc, pay, hi⟩)
  | none =>
    cases i with
    | bmsDecode length buf => exact .inl ⟨length, buf, rfl⟩
    | _ => nomatch h, hp

/-- A selectable operation is what its own transaction selects. -/
theorem transactionOf_of_selectable (b : Board) {i : Instr} (h : i.selectable b.data.ids = true) :
    ∃ t, Fits t ∧ transactionOf b.data.ids i = some t ∧ select b.data.ids t = i := by
  obtain ⟨length, buf, rfl⟩ | ⟨id, dlc, pay, rfl⟩ | ⟨k, dlc, pay, rfl⟩ := selectable_cases h
  · exact ⟨.bms length buf, (selectable_bmsDecode length buf).1 h, rfl, rfl⟩
  · obtain ⟨hdlc, hid⟩ := (selectable_dbcDecode dlc pay).1 h
    exact ⟨.dbc id dlc pay, hdlc, rfl, select_dbc_of_unrecognised dlc pay hid⟩
  · exact ⟨.dbc _ dlc pay, (selectable_decoderFor dlc pay).1 h, transactionOf_decoderFor dlc pay,
      select_dbc_of_recognise dlc pay (recognise_id b k)⟩

/-- What a transaction selects is selectable, and the transaction is its own. -/
theorem transactionOf_select (ids : Ids) {t : Transaction} (h : Fits t) :
    transactionOf ids (select ids t) = some t ∧ (select ids t).selectable ids = true := by
  cases t with
  | bms length buf => exact ⟨rfl, (selectable_bmsDecode length buf).2 h⟩
  | dbc id dlc pay =>
    cases hid : recognise ids id with
    | none =>
      rw [select_dbc_of_unrecognised dlc pay hid]
      exact ⟨rfl, (selectable_dbcDecode dlc pay).2 ⟨h, hid⟩⟩
    | some k =>
      rw [select_dbc_of_recognise dlc pay hid, transactionOf_decoderFor, id_of_recognise ids id k hid]
      exact ⟨rfl, (selectable_decoderFor dlc pay).2 h⟩

end Selection

/-! ### The serialised form of a transaction -/

/-- A 16-bit field is its two bytes, most significant first. -/
theorem half_of_bytes (x : Half) : x.extractLsb' 8 8 ++ x.extractLsb' 0 8 = x :=
  (BitVec.extractLsb'_append_extractLsb'_eq_extractLsb' rfl).trans BitVec.extractLsb'_eq_self

/-- A 32-bit field is its four bytes, most significant first. -/
theorem word_of_bytes (x : Word) :
    x.extractLsb' 24 8 ++ x.extractLsb' 16 8 ++ x.extractLsb' 8 8 ++ x.extractLsb' 0 8 = x := by
  rw [BitVec.extractLsb'_append_extractLsb'_eq_extractLsb' (show 24 = 16 + 8 from rfl),
    BitVec.extractLsb'_append_extractLsb'_eq_extractLsb' (show 16 = 8 + 8 from rfl),
    BitVec.extractLsb'_append_extractLsb'_eq_extractLsb' (show 8 = 0 + 8 from rfl)]
  exact BitVec.extractLsb'_eq_self

/-- The bytes of a field put together from two bytes. -/
theorem bytes_of_half (b1 b0 : Byte) : (b1 ++ b0).extractLsb' 8 8 = b1 ∧ (b1 ++ b0).extractLsb' 0 8 = b0 :=
  ⟨BitVec.extractLsb'_append_eq_left, BitVec.extractLsb'_append_eq_right⟩

/-- The bytes of a field put together from four bytes: each append gives its upper part or its lower one. -/
theorem bytes_of_word (b3 b2 b1 b0 : Byte) :
    (b3 ++ b2 ++ b1 ++ b0).extractLsb' 24 8 = b3 ∧ (b3 ++ b2 ++ b1 ++ b0).extractLsb' 16 8 = b2 ∧
    (b3 ++ b2 ++ b1 ++ b0).extractLsb' 8 8 = b1 ∧ (b3 ++ b2 ++ b1 ++ b0).extractLsb' 0 8 = b0 := by
  refine ⟨?_, ?_, ?_, BitVec.extractLsb'_append_eq_right⟩
  · rw [BitVec.extractLsb'_append_eq_of_le (by decide), BitVec.extractLsb'_append_eq_of_le (by decide)]
    exact BitVec.extractLsb'_append_eq_left
  · rw [BitVec.extractLsb'_append_eq_of_le (by decide), BitVec.extractLsb'_append_eq_of_le (by decide)]
    exact BitVec.extractLsb'_append_eq_right
  · rw [BitVec.extractLsb'_append_eq_of_le (by decide)]
    exact BitVec.extractLsb'_append_eq_right

/-- Reading the serialised form of a transaction gives the transaction back (R97). -/
theorem parse_serialise {t : Transaction} (h : Fits t) : parse (serialise t).1 (serialise t).2 = .ok t := by
  cases t with
  | bms length buf =>
    have hlength : length % 2 ^ 16 = length := Nat.mod_eq_of_lt h
    simp only [serialise, parse, half_of_bytes, BitVec.toNat_ofNat, hlength]
  | dbc id dlc pay =>
    have hdlc : dlc % 2 ^ 8 = dlc := Nat.mod_eq_of_lt h
    simp only [serialise, payBytes, parse, word_of_bytes, BitVec.toNat_ofNat, hdlc]

/-- Bytes that are read as a transaction are its serialised form (R97). -/
theorem serialise_of_parse {u : TxUnit} {bytes : List Byte} {t : Transaction} (h : parse u bytes = .ok t) :
    Fits t ∧ serialise t = (u, bytes) := by
  unfold parse at h
  split at h
  next l1 l0 buf =>
    obtain rfl := Except.ok.inj h
    obtain ⟨h1, h0⟩ := bytes_of_half l1 l0
    refine ⟨BitVec.isLt _, ?_⟩
    simp only [serialise, BitVec.ofNat_toNat, BitVec.setWidth_eq, h1, h0]
  next => cases h
  next i3 i2 i1 i0 d p0 p1 p2 p3 p4 p5 p6 p7 =>
    obtain rfl := Except.ok.inj h
    obtain ⟨h3, h2, h1, h0⟩ := bytes_of_word i3 i2 i1 i0
    refine ⟨BitVec.isLt _, ?_⟩
    simp only [serialise, payBytes, BitVec.ofNat_toNat, BitVec.setWidth_eq, h3, h2, h1, h0]
  next => cases h

/-- Bytes that decode are read as a transaction, and decode to the operation it selects. -/
theorem exists_of_decode {ids : Ids} {u : TxUnit} {bytes : List Byte} {i : Instr} (h : decode ids u bytes = .ok i) :
    ∃ t, parse u bytes = .ok t ∧ select ids t = i := by
  cases hp : parse u bytes with
  | ok t => exact ⟨t, rfl, Except.ok.inj ((decode_of_parse hp).symm.trans h)⟩
  | error e => simp [decode, hp] at h

/-- An operation with a transaction is encoded as that transaction's serialised form. -/
theorem encode_of_transactionOf {ids : Ids} {i : Instr} {t : Transaction} (h : transactionOf ids i = some t) :
    encode ids i = some (serialise t) := by simp only [encode, h]

/-- Settles O2: the operation is what its transaction selects, and the transaction is read back from its bytes. -/
theorem decodeOfEncodeIsTheOperation : Obligations.DecodeOfEncodeIsTheOperation := by
  intro b i hi
  obtain ⟨t, hfits, ht, hselect⟩ := transactionOf_of_selectable b hi
  refine ⟨(serialise t).1, (serialise t).2, encode_of_transactionOf ht, ?_⟩
  rw [decode_of_parse (parse_serialise hfits), hselect]

/-- Settles O3: the bytes are the serialised form of the transaction read from them. -/
theorem encodeOfDecodeIsTheBytes : Obligations.EncodeOfDecodeIsTheBytes := by
  intro b u bytes i hdecode
  obtain ⟨t, hparse, rfl⟩ := exists_of_decode hdecode
  obtain ⟨hfits, hserialise⟩ := serialise_of_parse hparse
  obtain ⟨ht, hselectable⟩ := transactionOf_select b.data.ids hfits
  exact ⟨by rw [encode_of_transactionOf ht, hserialise], hselectable⟩

/-- Settles O1: the five identifiers the source gives come before the four open ones. -/
theorem writtenBytesDecodeToTheirOperation : Obligations.WrittenBytesDecodeToTheirOperation :=
  fun _ => ⟨rfl, rfl, rfl, rfl, rfl, rfl, rfl, rfl⟩

/-! ### Dispatch -/

/-- Settles O30: both present the inputs and end with `dbcResult`. -/
theorem dispatcherRunsTheSelectedDecoder : Obligations.DispatcherRunsTheSelectedDecoder :=
  fun s id dlc pay => (execDbcDecode_eq id dlc pay s).trans (exec_select_dbc s id dlc pay).symm

/-- An unrecognised identifier fails as such (R184). -/
theorem dbcResult_of_unrecognised {c : Config} {id : Word} (dlc : Nat) (m : Memory) (h : recognise c.ids id = none) :
    dbcResult c id dlc m = .error .E_DBC_UNKNOWN_ID := by simp only [dbcResult, h]

/-- `DBC_DECODE` of an unrecognised identifier (R184, R241). -/
theorem exec_dbcDecode_of_unrecognised {s : State} {id : Word} (dlc : Nat) (pay : Pay)
    (h : recognise s.board.data.ids id = none) :
    exec (.dbcDecode id dlc pay) s = .next (endDbc (.error .E_DBC_UNKNOWN_ID) (presentDbc id dlc pay s)) := by
  rw [exec, execDbcDecode_eq, dbcResult_of_unrecognised dlc _ h]

/-- Settles O33: 0xFFF is not recognised. -/
theorem identifierFffFails : Obligations.IdentifierFffFails :=
  fun s dlc pay => exec_dbcDecode_of_unrecognised dlc pay (recognise_fff s.board)

/-! ### The decoder of a message -/

/-- A message's decoder with enough bytes completes with the message's body (R183). -/
theorem exec_decoderFor_of_le {k : MsgKind} {dlc : Nat} (pay : Pay) (s : State) (h : k.minDlc ≤ dlc) :
    exec (decoderFor k dlc pay) s =
      .next (endDbc (.ok (extract s.board.data k (Memory.ofPay pay)))
        (presentDbc (k.id s.board.data.ids) dlc pay s)) := by
  rw [exec_decoderFor, runMessage_eq, gated_enough _ _ _ _ h]

/-- Settles O37: past the minimum, `dlc` is presented and not looked at again. -/
theorem largerDlcChangesNothing : Obligations.LargerDlcChangesNothing :=
  fun s _ _ _ pay h h' => ⟨_, _, exec_decoderFor_of_le pay s h, exec_decoderFor_of_le pay s h', rfl⟩

/-- `LE16U` of a presented payload (R113). -/
theorem le16u_ofPay (pay : Pay) (k : Nat) : (le16u (Memory.ofPay pay) k).toNat = leNum16 (payBytes pay) k := by
  rw [le16u_toNat, byteAt_ofPay, byteAt_ofPay, Nat.add_comm]
  rfl

/-- `LE16S` of a presented payload (R114). -/
theorem le16s_ofPay (pay : Pay) (k : Nat) : le16s (Memory.ofPay pay) k = leInt16 (payBytes pay) k := by
  rw [le16s_eq, le16u_ofPay, leInt16]

/-- The body of 0x30A in numbers (R88, R205). -/
theorem extract30A_ofPay (pay : Pay) : extract30A (Memory.ofPay pay) = {
    charging_current_A := (leNum16 (payBytes pay) 2 : Rat) / 256
    battery_voltage_V := (leNum16 (payBytes pay) 4 : Rat) / 256
    temperature_C := (leInt16 (payBytes pay) 6 : Rat) / 8 - 40 } := by
  simp only [extract30A, scaledLe16_eq, scaledLe16s_eq, le16u_ofPay, le16s_ofPay, SCALE_256TH, SCALE_8TH,
    TEMPERATURE_BIAS, mul_one_div, sub_eq_add_neg]

/-- Settles O42: past its minimum 0x30A completes with its body. -/
theorem dbc30aDecodesThreeLittleEndianFields : Obligations.Dbc30aDecodesThreeLittleEndianFields := by
  intro s dlc pay h
  rw [← extract30A_ofPay]
  exact exec_decoderFor_of_le (k := .M30A) pay s h

/-! ### Bits past the top of a byte -/

/-- `BITS` run by itself has a value exactly on its domain (R119). -/
theorem exec_bits (b : Byte) (lsb w : Nat) (s : State) :
    exec (.bits b lsb w) s =
      if lsb + w ≤ 8 then .next (returnValue (.int (bits b lsb w)) s) else .refused .bitsOutsideByte := rfl

/-- Settles O15: the refused side of `exec_bits`. -/
theorem bitsOutsideTheByteIsRefused : Obligations.BitsOutsideTheByteIsRefused :=
  fun s b lsb w h => (exec_bits b lsb w s).trans (if_neg (Nat.not_le.2 h))

end Sys2Proof.Machine

namespace Sys2Proof.Machine

open Sys2Proof

/-! ### The internal operations return a value -/

/-- Whenever an internal operation completes it has returned a value and done nothing else (R110, R142). -/
theorem eq_returnValue_of_internalOp {i : Instr} {s t : State} (hop : internalOp i = true)
    (h : exec i s = .next t) : ∃ v, t = returnValue v s := by
  cases i with
  | be16u S k => exact ⟨_, readPrimitive_next ((exec_be16u S k s).symm.trans h)⟩
  | be32u S k => exact ⟨_, readPrimitive_next ((exec_be32u S k s).symm.trans h)⟩
  | le16u S k => exact ⟨_, readPrimitive_next ((exec_le16u S k s).symm.trans h)⟩
  | le16s S k => exact ⟨_, readPrimitive_next ((exec_le16s S k s).symm.trans h)⟩
  | le32u S k => exact ⟨_, readPrimitive_next ((exec_le32u S k s).symm.trans h)⟩
  | u8 S k => exact ⟨_, readPrimitive_next ((exec_u8 S k s).symm.trans h)⟩
  | bits b lsb w =>
    rw [exec_bits] at h
    split at h
    · exact ⟨_, (Host.Outcome.next.inj h).symm⟩
    · cases h
  | scale _ _ _ => exact ⟨_, (Host.Outcome.next.inj h).symm⟩
  | statusText _ _ => exact ⟨_, (Host.Outcome.next.inj h).symm⟩
  | errText _ => exact ⟨_, (Host.Outcome.next.inj h).symm⟩
  | enum1Text _ => exact ⟨_, (Host.Outcome.next.inj h).symm⟩
  | cycleText _ => exact ⟨_, (Host.Outcome.next.inj h).symm⟩
  | cycleClamp _ => exact ⟨_, (Host.Outcome.next.inj h).symm⟩
  | _ => cases hop

/-- Settles O49: the next state is a `returnValue`, which writes `opResult` and leaves both spaces. -/
theorem internalOperationsOnlyReturnAValue : Obligations.InternalOperationsOnlyReturnAValue := by
  intro i s t hop h
  obtain ⟨v, rfl⟩ := eq_returnValue_of_internalOp hop h
  exact ⟨rfl, fun S a => by rw [space_returnValue]⟩

/-! ### The unsigned primitives, on the bytes they read -/

section BytesRead

variable {m : Memory} {k : Nat} {b0 b1 b2 b3 : Byte}

/-- `U8` is the one byte of its read (R116). -/
theorem u8_of_memRead (h : m.memRead k 1 = some [b0]) : u8 m k = b0 := by
  obtain ⟨-, hbytes⟩ := (memRead_eq_some_iff m k 1 [b0]).1 h
  exact (List.head_eq_of_cons_eq hbytes).symm

/-- The four bytes of a read are those at its offset and the next three. -/
theorem byteAt_of_memRead_four (h : m.memRead k 4 = some [b0, b1, b2, b3]) :
    m.byteAt k = b0 ∧ m.byteAt (k + 1) = b1 ∧ m.byteAt (k + 2) = b2 ∧ m.byteAt (k + 3) = b3 := by
  obtain ⟨-, hbytes⟩ := (memRead_eq_some_iff m k 4 [b0, b1, b2, b3]).1 h
  simpa [List.range_succ, eq_comm] using hbytes

/-- `BE16U` of the bytes read (R111). -/
theorem be16u_toNat_of_memRead (h : m.memRead k 2 = some [b0, b1]) :
    (be16u m k).toNat = 256 * b0.toNat + b1.toNat := by
  obtain ⟨h0, h1⟩ := byteAt_of_memRead_two h
  rw [be16u_toNat, h0, h1]

/-- `BE32U` of the bytes read (R112). -/
theorem be32u_toNat_of_memRead (h : m.memRead k 4 = some [b0, b1, b2, b3]) :
    (be32u m k).toNat = 16777216 * b0.toNat + 65536 * b1.toNat + 256 * b2.toNat + b3.toNat := by
  obtain ⟨h0, h1, h2, h3⟩ := byteAt_of_memRead_four h
  rw [be32u_toNat, h0, h1, h2, h3]

/-- `LE32U` of the bytes read (R115). -/
theorem le32u_toNat_of_memRead (h : m.memRead k 4 = some [b0, b1, b2, b3]) :
    (le32u m k).toNat = b0.toNat + 256 * b1.toNat + 65536 * b2.toNat + 16777216 * b3.toNat := by
  obtain ⟨h0, h1, h2, h3⟩ := byteAt_of_memRead_four h
  rw [le32u_toNat, h0, h1, h2, h3]
  omega

end BytesRead

/-- Settles O6: the read is inside the space, so `BE16U` returns its value, that of the two bytes read. -/
theorem be16uPutsTheLowerOffsetFirst : Obligations.Be16uPutsTheLowerOffsetFirst := by
  intro s S k b0 b1 h
  rw [exec_be16u, readPrimitive_of_memRead _ h, be16u_toNat_of_memRead h]
  rfl

/-- Settles O7: the read is inside the space, so `BE32U` returns its value, that of the four bytes read. -/
theorem be32uPutsTheLowerOffsetFirst : Obligations.Be32uPutsTheLowerOffsetFirst := by
  intro s S k b0 b1 b2 b3 h
  rw [exec_be32u, readPrimitive_of_memRead _ h, be32u_toNat_of_memRead h]
  rfl

/-- Settles O8: the read is inside the space, so `LE16U` returns its value, that of the two bytes read. -/
theorem le16uPutsTheLowerOffsetLast : Obligations.Le16uPutsTheLowerOffsetLast := by
  intro s S k b0 b1 h
  rw [exec_le16u, readPrimitive_of_memRead _ h, le16u_toNat_of_memRead h]
  rfl

/-- Settles O10: the read is inside the space, so `LE32U` returns its value, that of the four bytes read. -/
theorem le32uPutsTheLowerOffsetLast : Obligations.Le32uPutsTheLowerOffsetLast := by
  intro s S k b0 b1 b2 b3 h
  rw [exec_le32u, readPrimitive_of_memRead _ h, le32u_toNat_of_memRead h]
  rfl

/-- Settles O11: the read is inside the space, so `U8` returns the byte read. -/
theorem u8ReturnsTheByte : Obligations.U8ReturnsTheByte := by
  intro s S k b h
  rw [exec_u8, readPrimitive_of_memRead _ h, u8_of_memRead h, returnValue]

/-! ### The two byte orders -/

section Mirror

variable {m m' : Memory} {k k' : Nat}

/-- R118: `LE16U` is `BE16U` of a space that holds its two bytes in reverse. -/
theorem le16u_eq_be16u_of_reversed (h0 : m.byteAt k = m'.byteAt (k' + 1)) (h1 : m.byteAt (k + 1) = m'.byteAt k') :
    le16u m k = be16u m' k' := by
  rw [le16u, be16u, h0, h1]

/-- R118: `LE32U` is `BE32U` of a space that holds its four bytes in reverse. -/
theorem le32u_eq_be32u_of_reversed (h0 : m.byteAt k = m'.byteAt (k' + 3)) (h1 : m.byteAt (k + 1) = m'.byteAt (k' + 2))
    (h2 : m.byteAt (k + 2) = m'.byteAt (k' + 1)) (h3 : m.byteAt (k + 3) = m'.byteAt k') :
    le32u m k = be32u m' k' := by
  rw [le32u, be32u, h0, h1, h2, h3]

end Mirror

/-- Settles O13: the two presented lists hold each other's bytes in reverse. -/
theorem byteOrdersMirrorEachOther : Obligations.ByteOrdersMirrorEachOther :=
  fun a b c d =>
    ⟨le16u_eq_be16u_of_reversed (by simp) (by simp),
      le32u_eq_be32u_of_reversed (by simp) (by simp) (by simp) (by simp)⟩

/-! ### Bits and scaling -/

/-- Settles O14: the completing side of `exec_bits`; shift and mask are division and remainder. -/
theorem bitsExtractsTheField : Obligations.BitsExtractsTheField := by
  intro s b lsb w h
  rw [exec_bits, if_pos h, bits_eq]
  rfl

/-- `SCALE` run by itself always has a value (R120). -/
theorem exec_scale (raw : Int) (sc bias : Rat) (s : State) :
    exec (.scale raw sc bias) s = .next (returnValue (.rat (scale raw sc bias)) s) := rfl

/-- Settles O16: `SCALE` returns `scale`, which is the formula of R120. -/
theorem scaleIsExact : Obligations.ScaleIsExact :=
  fun s raw sc bias => exec_scale raw sc bias s

end Sys2Proof.Machine

namespace Sys2Proof.Machine

open Sys2Proof

/-! ### The keys of a ROM are distinct -/

/-- `rising` is the library's chain of `<`. -/
theorem isChain_of_rising {l : List Nat} (h : rising l = true) : l.IsChain (· < ·) := by
  fun_induction rising l with
  | case1 => exact .nil
  | case2 a => exact .singleton a
  | case3 a b r ih =>
    obtain ⟨hab, hr⟩ := (Bool.and_eq_true_iff ..).1 h
    exact .cons_cons (of_decide_eq_true hab) (ih hr)

/-- Keys that rise as numbers are distinct. -/
theorem keys_nodup_of_rising {κ : Type} {rom : List (κ × Text)} (num : κ → Nat)
    (h : rising (rom.map fun e => num e.1) = true) : (rom.map Prod.fst).Nodup := by
  have hnum : ((rom.map Prod.fst).map num).Nodup := by
    rw [List.map_map]
    exact (isChain_of_rising h).pairwise.imp Nat.ne_of_lt
  exact hnum.of_map num

section Keys

variable (b : Board)

/-- The keys of every status ROM are distinct (R131). -/
theorem statusRom_keys_nodup (rom : StatusRom) : ((statusRom b.data.roms rom).map Prod.fst).Nodup := by
  obtain ⟨hchg, hdsg, hbal, -⟩ := b.roms_rise
  cases rom with
  | CHG_MOS_ROM => exact keys_nodup_of_rising BitVec.toNat hchg
  | DSG_MOS_ROM => exact keys_nodup_of_rising BitVec.toNat hdsg
  | BAL_ROM => exact keys_nodup_of_rising BitVec.toNat hbal

/-- The keys of `ERR_ROM` are distinct (R135). -/
theorem errRom_keys_nodup : (b.data.roms.ERR_ROM.map Prod.fst).Nodup := by
  obtain ⟨-, -, -, herr, -⟩ := b.roms_rise
  exact keys_nodup_of_rising BitVec.toNat herr

/-- The keys of `ENUM1_ROM` are distinct (R139). -/
theorem enum1Rom_keys_nodup : (b.data.roms.ENUM1_ROM.map Prod.fst).Nodup := by
  obtain ⟨-, -, -, -, henum1, -⟩ := b.roms_rise
  exact keys_nodup_of_rising Fin.val henum1

/-- The keys of `CYCLE_ROM` are distinct (R139). -/
theorem cycleRom_keys_nodup : (b.data.roms.CYCLE_ROM.map Prod.fst).Nodup := by
  obtain ⟨-, -, -, -, -, hcycle⟩ := b.roms_rise
  exact keys_nodup_of_rising Fin.val hcycle

end Keys

/-! ### The texts: entry or fallback -/

/-- A small enumeration's text for a key is its entry (R132); `smallText_of_not_key` says the other side. -/
theorem smallText_of_mem {κ : Type} [DecidableEq κ] {rom : List (κ × Text)} (hd : (rom.map Prod.fst).Nodup)
    {c : κ} {t : Text} (h : (c, t) ∈ rom) : smallText rom c = t := by
  simp only [smallText, romGet_of_mem rom hd c t h]

/-- The error text of a key is its entry (R137). -/
theorem errText_of_mem {r : Roms} (hd : (r.ERR_ROM.map Prod.fst).Nodup) {code : Word} {t : Text}
    (h : (code, t) ∈ r.ERR_ROM) : errText r code = t := by
  simp only [errText, romGet_of_mem _ hd code t h]

/-- The error text of any other code is the generated one (R137). -/
theorem errText_of_not_key {r : Roms} {code : Word} (h : code ∉ r.ERR_ROM.map Prod.fst) :
    errText r code = errFallback code := by
  simp only [errText, (romGet_eq_none_iff _ code).2 h]

/-! ### The look-up operations run by themselves (R142) -/

section Operations

variable (s : State)

theorem exec_statusText (rom : StatusRom) (code : Byte) :
    exec (.statusText rom code) s = .next (returnValue (.text (statusText s.board.data.roms rom code)) s) := rfl

theorem exec_errText (code : Word) :
    exec (.errText code) s = .next (returnValue (.text (errText s.board.data.roms code)) s) := rfl

theorem exec_enum1Text (code : Fin 16) :
    exec (.enum1Text code) s = .next (returnValue (.text (enum1Text s.board.data.roms code)) s) := rfl

theorem exec_cycleText (code : Fin 3) :
    exec (.cycleText code) s = .next (returnValue (.text (cycleText s.board.data.roms code)) s) := rfl

theorem exec_cycleClamp (n : Fin 16) :
    exec (.cycleClamp n) s = .next (returnValue (.int ((cycleClamp n).val : Nat)) s) := rfl

end Operations

/-- Settles O18: each status ROM is a small enumeration with distinct keys. -/
theorem statusTextIsEntryOrUnknown : Obligations.StatusTextIsEntryOrUnknown := by
  intro s rom code
  refine ⟨fun t ht => ?_, fun hkey => ?_⟩
  · rw [exec_statusText, statusText, smallText_of_mem (statusRom_keys_nodup s.board rom) ht, returnValue]
  · rw [exec_statusText, statusText, smallText_of_not_key _ _ hkey, returnValue, unknownText]

/-- Settles O19: `ERR_ROM` has distinct keys, and a code that is none has the fallback. -/
theorem errTextIsEntryOrFallback : Obligations.ErrTextIsEntryOrFallback := by
  intro s code
  refine ⟨fun t ht => ?_, fun hkey => ?_⟩
  · rw [exec_errText, errText_of_mem (errRom_keys_nodup s.board) ht, returnValue]
  · rw [exec_errText, errText_of_not_key hkey, returnValue]

/-- Settles O22: both enumerations are small ones with distinct keys. -/
theorem enumerationTextsAreEntryOrUnknown : Obligations.EnumerationTextsAreEntryOrUnknown := by
  intro s
  refine ⟨fun code t ht => ?_, fun code hkey => ?_, fun code t ht => ?_, fun code hkey => ?_⟩
  · rw [exec_enum1Text, enum1Text, smallText_of_mem (enum1Rom_keys_nodup s.board) ht, returnValue]
  · rw [exec_enum1Text, enum1Text, smallText_of_not_key _ _ hkey, returnValue, unknownText]
  · rw [exec_cycleText, cycleText, smallText_of_mem (cycleRom_keys_nodup s.board) ht, returnValue]
  · rw [exec_cycleText, cycleText, smallText_of_not_key _ _ hkey, returnValue, unknownText]

/-- Settles O21: the numeral stands between the two open parts of the fallback (R136). -/
theorem errFallbackHoldsTheDecimalNumeral : Obligations.ErrFallbackHoldsTheDecimalNumeral :=
  fun code => ⟨Config.errFallbackBefore code, Config.errFallbackAfter code, rfl⟩

/-- Settles O20: R135's two facts about `ERR_ROM`, each with its side of O19, and the numeral of 1 by O21. -/
theorem errTextOfTheTwoKnownCodes : Obligations.ErrTextOfTheTwoKnownCodes := by
  intro s
  obtain ⟨hkey, hgap⟩ := s.board.err_rom
  obtain ⟨⟨_, t⟩, hmem, rfl⟩ := List.mem_map.1 hkey
  obtain ⟨before, after, hnumeral⟩ := errFallbackHoldsTheDecimalNumeral 1
  exact ⟨⟨t, hmem, (errTextIsEntryOrFallback s _).1 t hmem⟩, hgap, (errTextIsEntryOrFallback s 1).2 hgap,
    before, after, hnumeral.symm⟩

/-- Settles O23: `cycleClamp_val`, as an integer. -/
theorem cycleClampCollapsesToZero : Obligations.CycleClampCollapsesToZero := by
  intro s n
  rw [exec_cycleClamp, cycleClamp_val, Nat.cast_ite, returnValue, Nat.cast_zero]

/-! ### No operation writes the configuration -/

/-- Settles O50: returning a value, presenting a transaction and ending one each keep the board. -/
theorem noOperationChangesTheConfiguration : Obligations.NoOperationChangesTheConfiguration := by
  intro i s t h
  obtain ⟨v, rfl⟩ | ⟨length, buf, -, -, rfl⟩ | ⟨id, dlc, pay, r, rfl⟩ := exec_next_cases i s t h
  · exact returnValue_board s v
  · rw [endBms_board, presentBms_board]
  · rw [endDbc_board, presentDbc_board]

end Sys2Proof.Machine

namespace Sys2Proof.Machine

open Sys2Proof

/-! ### `BMS_DECODE` on each side of the length gate -/

section Gate

variable (s : State) {length : Nat} {buf : List Byte}

/-- Below the gate the transaction completes with the default record (R152, R243). -/
theorem exec_bmsDecode_of_lt (h : length < 121) :
    exec (.bmsDecode length buf) s = .next (endBms (.error .E_BMS_SHORT) (presentBms length buf s)) := by
  have hgate : bmsResult s.board.data length (Memory.ofBytes buf) = .error .E_BMS_SHORT := if_pos h
  rw [exec_bmsDecode_of_hasResult s (.inl h), hgate]

/-- Past the gate, on a buffer of 121 bytes or more, it completes with the extracted record (R150). -/
theorem exec_bmsDecode_of_le (h : 121 ≤ length) (hbuf : 121 ≤ buf.length) :
    exec (.bmsDecode length buf) s =
      .next (endBms (.ok (extractBms s.board.data (Memory.ofBytes buf))) (presentBms length buf s)) := by
  rw [exec_bmsDecode_of_hasResult s (.inr hbuf), bmsResult_of_le _ _ h]

end Gate

/-- Settles O24: below the gate the transaction is presented and ended with the default record. -/
theorem shortBmsLengthGivesTheDefaultRecord : Obligations.ShortBmsLengthGivesTheDefaultRecord :=
  fun s _ _ h => exec_bmsDecode_of_lt s h

/-! ### The fields of a presented buffer in numbers -/

section PresentedFields

variable (buf : List Byte) (k : Nat)

/-- `U8` of presented bytes (R116). -/
theorem u8_ofBytes : (u8 (Memory.ofBytes buf) k).toNat = byteNum buf k :=
  congrArg BitVec.toNat (byteAt_ofBytes buf k)

/-- `BE16U` of presented bytes (R111). -/
theorem be16u_ofBytes : (be16u (Memory.ofBytes buf) k).toNat = beNum16 buf k := by
  rw [be16u_toNat, byteAt_ofBytes, byteAt_ofBytes]
  rfl

/-- `BE32U` of presented bytes (R112). -/
theorem be32u_ofBytes : (be32u (Memory.ofBytes buf) k).toNat = beNum32 buf k := by
  rw [be32u_toNat, byteAt_ofBytes, byteAt_ofBytes, byteAt_ofBytes, byteAt_ofBytes]
  rfl

/-- A field in tenths (R156, R157). -/
theorem scaledBe16_tenth_ofBytes : scaledBe16 (Memory.ofBytes buf) k SCALE_TENTH = (beNum16 buf k : Rat) / 10 := by
  rw [scaledBe16_eq, be16u_ofBytes, SCALE_TENTH, mul_one_div]

/-- A field in thousandths (R159, R164). -/
theorem scaledBe16_milli_ofBytes : scaledBe16 (Memory.ofBytes buf) k SCALE_MILLI = (beNum16 buf k : Rat) / 1000 := by
  rw [scaledBe16_eq, be16u_ofBytes, SCALE_MILLI, mul_one_div]

/-- A field in millionths (R162). -/
theorem scaledBe32_micro_ofBytes :
    scaledBe32 (Memory.ofBytes buf) k SCALE_MICRO = (beNum32 buf k : Rat) / 1000000 := by
  rw [scaledBe32_eq, be32u_ofBytes, SCALE_MICRO, mul_one_div]

end PresentedFields

/-- A cell's field (R159, D9). -/
theorem cell_voltages_extractBms (c : Config) (m : Memory) (i : Fin 20) :
    (extractBms c m).cell_voltages[i] = scaledBe16 m (6 + 2 * i.val) SCALE_MILLI := Vector.getElem_ofFn _

/-- An external temperature's field (R161, D10). -/
theorem temp_ext_raw_extractBms (c : Config) (m : Memory) (j : Fin 4) :
    (extractBms c m).temp_ext_raw[j] = be16u m (c.bms.TEMP_EXT_OFF + 2 * j.val) := Vector.getElem_ofFn _

/-- Settles O26: past the gate the record is the extracted one, each of its fields read from the presented bytes. -/
theorem bmsDecodeExtractsEveryField : Obligations.BmsDecodeExtractsEveryField := by
  intro s length buf hlen hbuf
  refine ⟨_, exec_bmsDecode_of_le s hlen hbuf, scaledBe16_tenth_ofBytes _ _, scaledBe16_tenth_ofBytes _ _,
    u8_ofBytes _ _, fun i => ?_, be16u_ofBytes _ _, be16u_ofBytes _ _, fun j => ?_, scaledBe32_micro_ofBytes _ _,
    scaledBe32_micro_ofBytes _ _, scaledBe32_micro_ofBytes _ _, u8_ofBytes _ _, rfl, u8_ofBytes _ _, rfl,
    u8_ofBytes _ _, rfl, u8_ofBytes _ _, scaledBe16_milli_ofBytes _ _, u8_ofBytes _ _, scaledBe16_milli_ofBytes _ _⟩
  · rw [cell_voltages_extractBms, scaledBe16_milli_ofBytes]
  · rw [temp_ext_raw_extractBms, be16u_ofBytes]

/-! ### The default record and the zero frame -/

/-- Settles O25: the default record is written down field by field, and each list in it is one zero repeated. -/
theorem defaultRecordIsZeroWithCodeZeroTexts : Obligations.DefaultRecordIsZeroWithCodeZeroTexts :=
  fun _ => ⟨rfl, rfl, rfl, fun i => Vector.getElem_replicate i.isLt, rfl, rfl,
    fun j => Vector.getElem_replicate j.isLt, rfl, rfl, rfl, rfl, rfl, rfl, rfl, rfl, rfl, rfl, rfl, rfl, rfl⟩

/-- A vector whose entries do not depend on the index repeats one entry. -/
theorem vector_ofFn_const {α : Type} (n : Nat) (c : α) : (Vector.ofFn fun _ : Fin n => c) = Vector.replicate n c := by
  ext i hi
  rw [Vector.getElem_ofFn, Vector.getElem_replicate]

section ZeroSpace

variable {m : Memory} (h : ∀ k, m.byteAt k = 0)
include h

/-- `U8` of a space of zeros. -/
theorem u8_of_zero (k : Nat) : u8 m k = 0 := h k

/-- `BE16U` of a space of zeros. -/
theorem be16u_of_zero (k : Nat) : be16u m k = 0 := by
  rw [be16u, h, h]
  rfl

/-- `BE32U` of a space of zeros. -/
theorem be32u_of_zero (k : Nat) : be32u m k = 0 := by
  rw [be32u, h, h, h, h]
  rfl

/-- A 16-bit scaled field of a space of zeros. -/
theorem scaledBe16_of_zero (k : Nat) (sc : Rat) : scaledBe16 m k sc = 0 := by
  simp [scaledBe16_eq, be16u_of_zero h]

/-- A 32-bit scaled field of a space of zeros. -/
theorem scaledBe32_of_zero (k : Nat) (sc : Rat) : scaledBe32 m k sc = 0 := by
  simp [scaledBe32_eq, be32u_of_zero h]

/-- R151, R166: whatever the layout, what is extracted from zeros is the default record. -/
theorem extractBms_of_zero (c : Config) : extractBms c m = defaultRecord c.roms := by
  simp only [extractBms, defaultRecord, scaledBe16_of_zero h, scaledBe32_of_zero h, u8_of_zero h, be16u_of_zero h,
    vector_ofFn_const]

end ZeroSpace

/-- Presented zeros are a space of zeros. -/
theorem byteAt_ofBytes_replicate_zero (n k : Nat) : (Memory.ofBytes (List.replicate n 0)).byteAt k = 0 := by
  rw [byteAt_ofBytes, List.getD_eq_getElem?_getD, List.getElem?_getD_replicate_default_eq]

/-- Settles O29: the zero frame passes the gate, and what is extracted from its zeros is the default record. -/
theorem zeroFrameEqualsTheDefaultRecord : Obligations.ZeroFrameEqualsTheDefaultRecord := by
  intro s
  refine ⟨_, exec_bmsDecode_of_le s (Nat.le_refl 121) (Nat.le_of_eq List.length_replicate.symm), ?_⟩
  rw [endBms_ok_bmsRec]
  exact extractBms_of_zero (byteAt_ofBytes_replicate_zero 121) s.board.data

end Sys2Proof.Machine

namespace Sys2Proof.Machine

open Sys2Proof

/-! ### `DBC_DECODE` of a message's identifier -/

section Recognised

variable {k : MsgKind} {dlc : Nat} (pay : Pay) (s : State)

/-- The entry operation under a message's identifier is the message's decoder (R180, R182). -/
theorem exec_dbcDecode_id :
    exec (.dbcDecode (k.id s.board.data.ids) dlc pay) s = exec (decoderFor k dlc pay) s := by
  rw [dispatcherRunsTheSelectedDecoder, select_dbc_of_recognise dlc pay (recognise_id s.board k)]

/-- A message's decoder below its minimum completes with the failure, and extracts nothing (R185). -/
theorem exec_decoderFor_of_lt (h : dlc < k.minDlc) :
    exec (decoderFor k dlc pay) s =
      .next (endDbc (.error .E_DBC_SHORT) (presentDbc (k.id s.board.data.ids) dlc pay s)) := by
  rw [exec_decoderFor, runMessage_eq, gated_short _ _ _ _ h]

end Recognised

/-- Settles O31: the entry operation is the message's decoder, which completes with its body under the message's tag. -/
theorem recognisedIdentifierSucceedsWithItsTag : Obligations.RecognisedIdentifierSucceedsWithItsTag :=
  fun s k _ pay h => ⟨extract s.board.data k (Memory.ofPay pay), tag_extract _ _ _,
    (exec_dbcDecode_id pay s).trans (exec_decoderFor_of_le pay s h), (exec_dbcDecode_id pay s).symm⟩

/-- Settles O34: each clause is `exec_decoderFor_of_lt` at the messages of one minimum. -/
theorem shortDlcFailsEveryMessage : Obligations.ShortDlcFailsEveryMessage := by
  intro s dlc pay short
  have hshort (k : MsgKind) (h : dlc < k.minDlc) : exec (decoderFor k dlc pay) s = short (k.id s.board.data.ids) :=
    exec_decoderFor_of_lt pay s h
  exact ⟨fun h => ⟨hshort .M18A h, hshort .M28A h, hshort .M38A h, hshort .M20A h, hshort .M30A h, hshort .M9 h⟩,
    hshort .NODE_CMD, fun h => ⟨hshort .HB_A h, hshort .HB_B h⟩⟩

/-! ### `DBC_DECODE` of an identifier of no message -/

/-- Settles O32: such an identifier is not recognised. -/
theorem unknownIdentifierFails : Obligations.UnknownIdentifierFails :=
  fun _ _ dlc pay h => exec_dbcDecode_of_unrecognised dlc pay ((recognise_eq_none_iff _ _).2 h)

/-- Settles O36: the two failures differ in their ending alone, which the host does not read. -/
theorem dbcFailuresLookTheSame : Obligations.DbcFailuresLookTheSame :=
  fun s _ _ _ dlc' pay pay' hshort hunknown =>
    ⟨_, _, (exec_dbcDecode_id pay s).trans (exec_decoderFor_of_lt pay s hshort),
      unknownIdentifierFails s _ dlc' pay' hunknown, rfl, rfl⟩

/-! ### When `DBC_DECODE` succeeds -/

/-- Under a message's identifier the dispatcher gives the message's gate (R180). -/
theorem dbcResult_id (b : Board) (k : MsgKind) (dlc : Nat) (m : Memory) :
    dbcResult b.data (k.id b.data.ids) dlc m = gated b.data k dlc m := by
  simp only [dbcResult, recognise_id]

/-- Past a message's gate stands the message's body, and nothing else (R183, R185). -/
theorem gated_eq_ok_iff {c : Config} {k : MsgKind} {dlc : Nat} {m : Memory} {out : Container} :
    gated c k dlc m = .ok out ↔ k.minDlc ≤ dlc ∧ extract c k m = out := by
  rcases Nat.lt_or_ge dlc k.minDlc with h | h
  · simp [gated_short c k dlc m h, Nat.not_le.2 h]
  · simp [gated_enough c k dlc m h, h]

/-- The dispatcher gives a container exactly under a message's identifier with enough bytes, and it is that message's
body (R183, R184). -/
theorem dbcResult_eq_ok_iff {b : Board} {id : Word} {dlc : Nat} {m : Memory} {out : Container} :
    dbcResult b.data id dlc m = .ok out ↔
      ∃ k : MsgKind, k.id b.data.ids = id ∧ k.minDlc ≤ dlc ∧ extract b.data k m = out := by
  constructor
  · intro h
    cases hid : recognise b.data.ids id with
    | none => cases (dbcResult_of_unrecognised dlc m hid).symm.trans h
    | some k =>
      obtain rfl := id_of_recognise _ _ _ hid
      exact ⟨k, rfl, gated_eq_ok_iff.1 ((dbcResult_id b k dlc m).symm.trans h)⟩
  · rintro ⟨k, rfl, h⟩
    exact (dbcResult_id b k dlc m).trans (gated_eq_ok_iff.2 h)

/-- A DBC transaction ends with `success` exactly when it has a container to give (R24). -/
theorem success_endDbc_iff_exists_ok (r : Except Failure Container) (s : State) :
    (endDbc r s).success = true ↔ ∃ out, r = .ok out := by cases r <;> simp

/-- Settles O35: `dbcResult_eq_ok_iff` says when a container is given and which; `dbcResult_of_unrecognised` the rest. -/
theorem successExactlyWhenRecognisedAndLongEnough : Obligations.SuccessExactlyWhenRecognisedAndLongEnough := by
  intro s id dlc pay
  refine ⟨_, execDbcDecode_eq id dlc pay s, ?_, fun k hid hdlc => ?_, fun hid => ?_⟩
  · rw [success_endDbc_iff_exists_ok]
    constructor
    · rintro ⟨out, hout⟩
      obtain ⟨k, hid, hdlc, -⟩ := dbcResult_eq_ok_iff.1 hout
      exact ⟨k, hid, hdlc⟩
    · rintro ⟨k, hid, hdlc⟩
      exact ⟨_, dbcResult_eq_ok_iff.2 ⟨k, hid, hdlc, rfl⟩⟩
  · rw [dbcResult_eq_ok_iff.2 ⟨k, hid, hdlc, rfl⟩]
    exact ⟨tag_extract _ _ _, rfl⟩
  · rw [dbcResult_of_unrecognised dlc _ ((recognise_eq_none_iff _ _).2 hid)]
    exact ⟨rfl, rfl⟩

end Sys2Proof.Machine

namespace Sys2Proof.Machine

open Sys2Proof

/-! ### The fields of a presented payload in numbers -/

section PresentedPayload

variable (pay : Pay) (k : Nat)

/-- `U8` of a presented payload (R116). -/
theorem u8_ofPay : u8 (Memory.ofPay pay) k = (payBytes pay).getD k 0 := byteAt_ofPay pay k

/-- `LE32U` of a presented payload (R115). -/
theorem le32u_ofPay : (le32u (Memory.ofPay pay) k).toNat = leNum32 (payBytes pay) k := by
  simp only [le32u_toNat, byteAt_ofPay, leNum32, byteNum]
  omega

/-- `LE32U` of a presented payload, as the word itself. -/
theorem le32u_ofPay_eq_ofNat : le32u (Memory.ofPay pay) k = BitVec.ofNat 32 (leNum32 (payBytes pay) k) := by
  rw [← le32u_ofPay, BitVec.ofNat_toNat, BitVec.setWidth_eq]

/-- A field in 256ths (R201, R204). -/
theorem scaledLe16_256th_ofPay :
    scaledLe16 (Memory.ofPay pay) k SCALE_256TH = (leNum16 (payBytes pay) k : Rat) / 256 := by
  rw [scaledLe16_eq, le16u_ofPay, SCALE_256TH, mul_one_div]

/-- A field in 16ths (R202 to R204). -/
theorem scaledLe16_16th_ofPay :
    scaledLe16 (Memory.ofPay pay) k SCALE_16TH = (leNum16 (payBytes pay) k : Rat) / 16 := by
  rw [scaledLe16_eq, le16u_ofPay, SCALE_16TH, mul_one_div]

/-- A field in tens (R202). -/
theorem scaledLe16_ten_ofPay :
    scaledLe16 (Memory.ofPay pay) k SCALE_TEN = (leNum16 (payBytes pay) k : Rat) * 10 := by
  rw [scaledLe16_eq, le16u_ofPay, SCALE_TEN]

/-- A 32-bit field in eighths (R202). -/
theorem scaledLe32_8th_ofPay :
    scaledLe32 (Memory.ofPay pay) k SCALE_8TH = (leNum32 (payBytes pay) k : Rat) / 8 := by
  rw [scaledLe32_eq, le32u_ofPay, SCALE_8TH, mul_one_div]

/-- A sub-field of a presented payload, on either status byte (R92, R201). -/
theorem subField_ofPay (l : StLayout) (f : SubField) (w : Nat) :
    subField l (Memory.ofPay pay) f w = stNum l (payBytes pay) f w := by
  obtain ⟨byte, lsb⟩ := f
  cases byte <;> simp only [subField, statusByte, bits_eq, u8_ofPay, stNum, byteNum]

end PresentedPayload

/-! ### The bodies of the messages, of a presented payload -/

section Bodies

variable (c : Config) (pay : Pay)

/-- The body of 0x28A in numbers (R202). -/
theorem extract28A_ofPay : extract28A c (Memory.ofPay pay) = {
    elapsed_time := (leNum16 (payBytes pay) c.dbc.M28A_T_OFF : Rat) * 10
    ah_returned := (leNum32 (payBytes pay) c.dbc.M28A_AH_OFF : Rat) / 8
    wh_returned := (leNum16 (payBytes pay) c.dbc.M28A_WH_OFF : Rat) / 16 } := by
  rw [extract28A, scaledLe16_ten_ofPay, scaledLe32_8th_ofPay, scaledLe16_16th_ofPay]

/-- The body of 0x38A in numbers (R203). -/
theorem extract38A_ofPay : extract38A c (Memory.ofPay pay) = {
    current_error := BitVec.ofNat 32 (leNum32 (payBytes pay) c.dbc.M38A_ERR_OFF)
    current_error_text := errText c.roms (BitVec.ofNat 32 (leNum32 (payBytes pay) c.dbc.M38A_ERR_OFF))
    ac_voltage_V := (leNum16 (payBytes pay) c.dbc.M38A_VAC_OFF : Rat) / 16 } := by
  rw [extract38A, le32u_ofPay_eq_ofNat, scaledLe16_16th_ofPay]

/-- The body of 0x20A in numbers (R204). -/
theorem extract20A_ofPay : extract20A c (Memory.ofPay pay) = {
    voltage_request_V := (leNum16 (payBytes pay) c.dbc.M20A_V_OFF : Rat) / 256
    current_request_A := (leNum16 (payBytes pay) c.dbc.M20A_I_OFF : Rat) / 16 } := by
  rw [extract20A, scaledLe16_256th_ofPay, scaledLe16_16th_ofPay]

/-- The body of the node command (R206). -/
theorem extractNodeCmd_ofPay : extractNodeCmd (Memory.ofPay pay) = { byte0 := pay.b0, byte1 := pay.b1 } := by
  rw [extractNodeCmd, u8_ofPay, u8_ofPay]
  rfl

/-- The body of the first heartbeat (R207). -/
theorem extractHbA_ofPay : extractHbA (Memory.ofPay pay) = { byte0 := pay.b0 } := by
  rw [extractHbA, u8_ofPay]
  rfl

/-- The body of the second heartbeat (R208). -/
theorem extractHbB_ofPay : extractHbB (Memory.ofPay pay) = { byte0 := pay.b0 } := by
  rw [extractHbB, u8_ofPay]
  rfl

/-- The body of message 9 (R209). -/
theorem extractM9_ofPay : extractM9 c (Memory.ofPay pay) = Config.decM9 c.roms pay := by
  rw [extractM9, toPay_ofPay]

end Bodies

/-- Settles O38: past its minimum 0x18A completes with its body, each field of it read from the presented payload. -/
theorem dbc18aDecodesFieldsAndStatus : Obligations.Dbc18aDecodesFieldsAndStatus := by
  intro s dlc pay h
  have hflag (f : SubField) : flagBit s.board.data.st (Memory.ofPay pay) f = true ↔
      stNum s.board.data.st (payBytes pay) f 1 = 1 := by rw [flagBit_iff, subField_ofPay]
  have hnibble (f : SubField) : (nibble s.board.data.st (Memory.ofPay pay) f).val =
      stNum s.board.data.st (payBytes pay) f 4 := by rw [nibble_val, subField_ofPay]
  refine ⟨_, exec_decoderFor_of_le (k := .M18A) pay s h, scaledLe16_256th_ofPay _ _, scaledLe16_256th_ofPay _ _,
    hflag _, hflag _, hflag _, hflag _, ?override, hnibble _, ?cycle⟩
  case override => rw [← subField_ofPay]; exact decide_eq_true_iff
  case cycle => rw [← hnibble]; exact cycleClamp_val _

/-- Settles O39: past its minimum 0x28A completes with its body. -/
theorem dbc28aDecodesTimeAhWh : Obligations.Dbc28aDecodesTimeAhWh := by
  intro s dlc pay h
  rw [← extract28A_ofPay]
  exact exec_decoderFor_of_le (k := .M28A) pay s h

/-- Settles O40: past its minimum 0x38A completes with its body. -/
theorem dbc38aKeepsTheCodeBesideItsText : Obligations.Dbc38aKeepsTheCodeBesideItsText := by
  intro s dlc pay h
  rw [← extract38A_ofPay]
  exact exec_decoderFor_of_le (k := .M38A) pay s h

/-- Settles O41: past its minimum 0x20A completes with its body. -/
theorem dbc20aDecodesTheRequests : Obligations.Dbc20aDecodesTheRequests := by
  intro s dlc pay h
  rw [← extract20A_ofPay]
  exact exec_decoderFor_of_le (k := .M20A) pay s h

/-- Settles O43: past its minimum the node command completes with its body. -/
theorem dbcNodeCmdCarriesTwoBytes : Obligations.DbcNodeCmdCarriesTwoBytes := by
  intro s dlc pay h
  rw [← extractNodeCmd_ofPay]
  exact exec_decoderFor_of_le (k := .NODE_CMD) pay s h

/-- Settles O44: past its minimum each heartbeat completes with its own body. -/
theorem dbcHeartbeatsCarryOneByteEach : Obligations.DbcHeartbeatsCarryOneByteEach := by
  intro s dlc pay h
  rw [← extractHbA_ofPay, ← extractHbB_ofPay]
  exact ⟨exec_decoderFor_of_le (k := .HB_A) pay s h, exec_decoderFor_of_le (k := .HB_B) pay s h⟩

/-- Settles O45: past its minimum message 9 completes with its body. -/
theorem dbcM9AppliesTheOpenFunction : Obligations.DbcM9AppliesTheOpenFunction := by
  intro s dlc pay h
  rw [← extractM9_ofPay]
  exact exec_decoderFor_of_le (k := .M9) pay s h

/-! ### The ranges of the scaled fields (R210) -/

/-- A scaled integer lies between the scaled ends of its range, a whole number of scales above the lower one. -/
theorem inSteps_scale {raw rawLo rawHi : Int} {sc : Rat} (bias : Rat) (hsc : 0 ≤ sc) (hlo : rawLo ≤ raw)
    (hhi : raw ≤ rawHi) : InSteps (scale rawLo sc bias) (scale rawHi sc bias) sc (scale raw sc bias) := by
  have mono {x y : Int} (h : x ≤ y) : scale x sc bias ≤ scale y sc bias := by
    unfold scale
    gcongr
  obtain ⟨n, rfl⟩ := Int.le.dest hlo
  refine ⟨mono hlo, mono hhi, n, ?_⟩
  simp only [scale, Int.cast_add, Int.cast_natCast]
  ring

section FieldRanges

variable (m : Memory) (k : Nat) {sc : Rat}

/-- The range of an unsigned 16-bit field. -/
theorem inSteps_scaledLe16 (hsc : 0 ≤ sc) : InSteps 0 (65535 * sc) sc (scaledLe16 m k sc) := by
  have hraw := (le16u m k).isLt
  have h := inSteps_scale (raw := (le16u m k).toNat) (rawLo := 0) (rawHi := 65535) 0 hsc (by omega) (by omega)
  simpa [scaledLe16_eq, scale] using h

/-- The range of an unsigned 32-bit field. -/
theorem inSteps_scaledLe32 (hsc : 0 ≤ sc) : InSteps 0 (4294967295 * sc) sc (scaledLe32 m k sc) := by
  have hraw := (le32u m k).isLt
  have h := inSteps_scale (raw := (le32u m k).toNat) (rawLo := 0) (rawHi := 4294967295) 0 hsc (by omega) (by omega)
  simpa [scaledLe32_eq, scale] using h

/-- `LE16S` has the range of two's complement (R114). -/
theorem le16s_mem_range : -32768 ≤ le16s m k ∧ le16s m k ≤ 32767 := by
  have hraw := (le16u m k).isLt
  rw [le16s_eq]
  split <;> omega

/-- The range of the signed 16-bit field. -/
theorem inSteps_scaledLe16s (bias : Rat) (hsc : 0 ≤ sc) :
    InSteps (scale (-32768) sc bias) (scale 32767 sc bias) sc (scaledLe16s m k sc bias) :=
  inSteps_scale bias hsc (le16s_mem_range m k).1 (le16s_mem_range m k).2

/-- The range of a field in 256ths. -/
theorem inSteps_256th : InSteps 0 255.99609375 0.00390625 (scaledLe16 m k SCALE_256TH) := by
  convert inSteps_scaledLe16 m k (sc := SCALE_256TH) ?_ using 1 <;> norm_num [SCALE_256TH]

/-- The range of a field in 16ths. -/
theorem inSteps_16th : InSteps 0 4095.9375 0.0625 (scaledLe16 m k SCALE_16TH) := by
  convert inSteps_scaledLe16 m k (sc := SCALE_16TH) ?_ using 1 <;> norm_num [SCALE_16TH]

/-- The range of a field in tens. -/
theorem inSteps_ten : InSteps 0 655350 10 (scaledLe16 m k SCALE_TEN) := by
  convert inSteps_scaledLe16 m k (sc := SCALE_TEN) ?_ using 1 <;> norm_num [SCALE_TEN]

/-- The range of a 32-bit field in eighths. -/
theorem inSteps_8th : InSteps 0 536870911.875 0.125 (scaledLe32 m k SCALE_8TH) := by
  convert inSteps_scaledLe32 m k (sc := SCALE_8TH) ?_ using 1 <;> norm_num [SCALE_8TH]

/-- The range of the temperature. -/
theorem inSteps_temperature : InSteps (-4136) 4055.875 0.125 (scaledLe16s m k SCALE_8TH TEMPERATURE_BIAS) := by
  convert inSteps_scaledLe16s m k (sc := SCALE_8TH) TEMPERATURE_BIAS ?_ using 1 <;>
    norm_num [scale, SCALE_8TH, TEMPERATURE_BIAS]

end FieldRanges

/-- R210 on a container: each scaled field of its body lies in its range and on its step. -/
def Container.InRanges : Container → Prop
  | .M18A b => InSteps 0 255.99609375 0.00390625 b.charging_current_A ∧
      InSteps 0 255.99609375 0.00390625 b.battery_voltage_V
  | .M28A b => InSteps 0 655350 10 b.elapsed_time ∧
      InSteps 0 536870911.875 0.125 b.ah_returned ∧ InSteps 0 4095.9375 0.0625 b.wh_returned
  | .M38A b => InSteps 0 4095.9375 0.0625 b.ac_voltage_V
  | .M20A b => InSteps 0 255.99609375 0.00390625 b.voltage_request_V ∧
      InSteps 0 4095.9375 0.0625 b.current_request_A
  | .M30A b => InSteps 0 255.99609375 0.00390625 b.charging_current_A ∧
      InSteps 0 255.99609375 0.00390625 b.battery_voltage_V ∧ InSteps (-4136) 4055.875 0.125 b.temperature_C
  | .NONE | .NODE_CMD _ | .HB_A _ | .HB_B _ | .M9 _ => True

/-- Every message's body is in its ranges, whatever the payload and the layout. -/
theorem inRanges_extract (c : Config) (k : MsgKind) (m : Memory) : (extract c k m).InRanges := by
  cases k with
  | M18A => exact ⟨inSteps_256th m _, inSteps_256th m _⟩
  | M28A => exact ⟨inSteps_ten m _, inSteps_8th m _, inSteps_16th m _⟩
  | M38A => exact inSteps_16th m _
  | M20A => exact ⟨inSteps_256th m _, inSteps_16th m _⟩
  | M30A => exact ⟨inSteps_256th m _, inSteps_256th m _, inSteps_temperature m _⟩
  | NODE_CMD | HB_A | HB_B | M9 => trivial

/-- The container a DBC transaction leaves is a message's body or `NONE`, so it is in its ranges. -/
theorem inRanges_out_endDbc (b : Board) (id : Word) (dlc : Nat) (m : Memory) (s : State) :
    (endDbc (dbcResult b.data id dlc m) s).out.InRanges := by
  cases h : dbcResult b.data id dlc m with
  | ok out =>
    obtain ⟨k, -, -, rfl⟩ := dbcResult_eq_ok_iff.1 h
    exact inRanges_extract b.data k m
  | error f => trivial

/-- Settles O46: the container left is in its ranges, and each clause reads them under one tag. -/
theorem dbcScaledValuesStayInTheirRanges : Obligations.DbcScaledValuesStayInTheirRanges := by
  intro s id dlc pay
  obtain ⟨t, hexec, hranges⟩ : ∃ t, exec (.dbcDecode id dlc pay) s = .next t ∧ t.out.InRanges :=
    ⟨_, execDbcDecode_eq id dlc pay s, inRanges_out_endDbc _ _ _ _ _⟩
  have hbody (c : Container) (hc : t.out = c) : c.InRanges := hc ▸ hranges
  exact ⟨t, hexec, fun b => hbody (.M18A b), fun b => hbody (.M28A b), fun b => hbody (.M38A b),
    fun b => hbody (.M20A b), fun b => hbody (.M30A b)⟩

end Sys2Proof.Machine

namespace Sys2Proof.Machine

open Sys2Proof

/-! ### When an operation is refused -/

/-- Of BMS transactions, exactly those of an untruthful length are refused, as a read outside the space (R58, R276). -/
theorem exec_bmsDecode_eq_refused_iff {length : Nat} {buf : List Byte} {s : State} {r : Refusal} :
    exec (.bmsDecode length buf) s = .refused r ↔ r = .readOutsideSpace ∧ 121 ≤ length ∧ buf.length < 121 := by
  by_cases hout : 121 ≤ length ∧ buf.length < 121
  · rw [untruthfulBmsLengthIsRefused s length buf hout.1 hout.2]
    simp [hout, eq_comm]
  · rw [exec_bmsDecode_of_hasResult s (by omega)]
    simp [hout]

/-- Settles O54: `Fault` is empty, an idle step and a DBC transaction complete, and a BMS transaction is refused by
`exec_bmsDecode_eq_refused_iff`. -/
theorem stepIsRefusedOnlyForAnUntruthfulLength : Obligations.StepIsRefusedOnlyForAnUntruthfulLength := by
  refine fun s => ⟨nofun, fun r => ?_⟩
  cases hp : s.pending with
  | nil => simp [step_idle s hp]
  | cons t rest =>
    rw [step_cons s t rest hp]
    cases t with
    | bms length buf => simp [select, exec_bmsDecode_eq_refused_iff]
    | dbc id dlc pay =>
      have hnext := exec_select_dbc { s with pending := rest } id dlc pay
      simp [hnext]

/-! ### The two units touch different ports -/

/-- A transaction of one unit, presented and ended, commutes with one of the other. -/
theorem bmsTransaction_dbcTransaction_comm (q : Except Failure BmsRecord) (r : Except Failure Container) (length : Nat)
    (buf : List Byte) (id : Word) (dlc : Nat) (pay : Pay) (s : State) :
    endBms q (presentBms length buf (endDbc r (presentDbc id dlc pay s))) =
      endDbc r (presentDbc id dlc pay (endBms q (presentBms length buf s))) := by
  rw [← endDbc_endBms_presentBms]
  cases q <;> rfl

/-- Settles O56: each unit's result reads its own presented inputs and the board, which the other unit leaves alone, so
both orders end alike by `bmsTransaction_dbcTransaction_comm`. -/
theorem theTwoUnitsCommute : Obligations.TheTwoUnitsCommute := by
  intro s length buf id dlc pay hr
  refine ⟨_, _, _, exec_bmsDecode_of_hasResult s hr, execDbcDecode_eq id dlc pay _, execDbcDecode_eq id dlc pay s, ?_⟩
  rw [exec_bmsDecode_of_hasResult _ hr, bmsTransaction_dbcTransaction_comm, endDbc_board, presentDbc_board,
    endBms_board, presentBms_board]

end Sys2Proof.Machine
